-- ==== Sys2Proof/Word.lean ====
section
/-! DEFINITION. The words of CSIM-CORE: the widths the spec gives its commands, addresses, tags and
counters (spec 00_scope.md R6, 30_encoding.md R46). -/

namespace Sys2Proof

/-- One 36-bit command word, `op` in bits 35:32 (R46). -/
abbrev CmdWord := BitVec 36

/-- The 4-bit opcode field (R46). -/
abbrev Opcode := BitVec 4

/-- The 32-bit payload field (R46). -/
abbrev Payload := BitVec 32

/-- A trace address: ADDR_WIDTH is 32 (R6, R31). -/
abbrev Addr := BitVec 32

/-- A stored tag: TAG_STORE_WIDTH is 26 (R6, R20). -/
abbrev Tag := BitVec 26

/-- A statistics counter: COUNTER_WIDTH is 64 (R6, R23). -/
abbrev Counter := BitVec 64

end Sys2Proof
end

