-- ==== Sys2Proof/Config.lean ====
section
/-! DEFINITION. What one build of CSIM-CORE fixes: the constants of spec 00_scope.md R6, and its one
"model argument", MAX_BLOCKS. -/

namespace Sys2Proof

/-- BLOCK_SIZE: 64 bytes, fixed (R6). -/
def blockSizeBytes : Nat := 64

/-- OFFSET_BITS: 6, fixed (R6). -/
def offsetBitsFixed : Nat := 6

/-- ADDR_WIDTH as a number (R6). -/
def addrWidth : Nat := 32

/-- The slots a bank's storage has: the largest `bank_length` (R6; notes/assumptions/5.md). -/
abbrev slotsPerBank : Nat := 64

/-- The parameters a build fixes and no command and no reset changes (R6, U5). -/
structure Params where
  /-- MAX_BLOCKS: how many slots there are in total. -/
  maxBlocks : Nat
deriving DecidableEq, Repr

/-- The spec's defaults: "MAX_BLOCKS ... model argument, default 64" (R6). -/
def Params.default : Params := { maxBlocks := 64 }

end Sys2Proof
end

