-- ==== Sys2Proof/Syntax.lean ====
section
/-! DEFINITION. The commands of CSIM-CORE: one constructor per row of spec/opcode_table.json, with
every field of its format (spec 30_encoding.md R46 to R51). -/

namespace Sys2Proof

/-- `mapping` is {DirectMapped, FullyAssociative} (R10, R54). -/
inductive Mapping where
  | directMapped
  | fullyAssociative
deriving DecidableEq, Repr

/-- `organization` is {Unified, Split} (R10, R54). -/
inductive Organization where
  | unified
  | split
deriving DecidableEq, Repr

/-- `access_kind` is {Instruction, Data} (R10, R54). -/
inductive AccessKind where
  | instruction
  | data
deriving DecidableEq, Repr

/-- A command. The reserved opcodes keep their payload, because a fault records the whole word
(R102, R103; notes/assumptions/3.md). -/
inductive Instr where
  /-- Format C (R48): the CacheConfiguration, and the 14 reserved bits. -/
  | configure (size : BitVec 16) (map : Mapping) (org : Organization) (rsv : BitVec 14)
  /-- Format A with op 0x2 (R49). -/
  | accessI (addr : Addr)
  /-- Format A with op 0x3 (R49). -/
  | accessD (addr : Addr)
  /-- Format E (R50). -/
  | endTrace (z : BitVec 32)
  /-- Reserved opcode 0x0 (R51). -/
  | reserved0 (payload : Payload)
  /-- Reserved opcode 0x5 (R51). -/
  | reserved5 (payload : Payload)
  /-- Reserved opcode 0x6 (R51). -/
  | reserved6 (payload : Payload)
  /-- Reserved opcode 0x7 (R51). -/
  | reserved7 (payload : Payload)
  /-- Reserved opcode 0x8 (R51). -/
  | reserved8 (payload : Payload)
  /-- Reserved opcode 0x9 (R51). -/
  | reserved9 (payload : Payload)
  /-- Reserved opcode 0xA (R51). -/
  | reservedA (payload : Payload)
  /-- Reserved opcode 0xB (R51). -/
  | reservedB (payload : Payload)
  /-- Reserved opcode 0xC (R51). -/
  | reservedC (payload : Payload)
  /-- Reserved opcode 0xD (R51). -/
  | reservedD (payload : Payload)
  /-- Reserved opcode 0xE (R51). -/
  | reservedE (payload : Payload)
  /-- Reserved opcode 0xF (R51). -/
  | reservedF (payload : Payload)
deriving DecidableEq, Repr

end Sys2Proof
end

