-- ==== Sys2Proof/WellFormed.lean ====
section
/-! DEFINITION. Which commands are legal as encodings: the legal values the formats of spec
30_encoding.md R48 to R51 and R57 list. Legality is not needed to decode (R60) nor to have a meaning:
an illegal command raises the error its rule names. -/

namespace Sys2Proof

/-- The legal values of the `size` field (R48; 00_scope.md R6). -/
def legalSizes : List (BitVec 16) := [128, 256, 512, 1024, 2048, 4096]

/-- CONFIGURE's `rsv` "must be 0" and END_TRACE's `z` "must be 0" (R48, R50, R57). -/
def Instr.reservedBitsZero : Instr → Bool
  | .configure _ _ _ rsv => rsv == 0
  | .endTrace z => z == 0
  | .accessI _ => true
  | .accessD _ => true
  | .reserved0 _ => true
  | .reserved5 _ => true
  | .reserved6 _ => true
  | .reserved7 _ => true
  | .reserved8 _ => true
  | .reserved9 _ => true
  | .reservedA _ => true
  | .reservedB _ => true
  | .reservedC _ => true
  | .reservedD _ => true
  | .reservedE _ => true
  | .reservedF _ => true

/-- CONFIGURE's `size` is one of its six legal values (R48). -/
def Instr.sizeLegal : Instr → Bool
  | .configure size _ _ _ => legalSizes.contains size
  | .accessI _ => true
  | .accessD _ => true
  | .endTrace _ => true
  | .reserved0 _ => true
  | .reserved5 _ => true
  | .reserved6 _ => true
  | .reserved7 _ => true
  | .reserved8 _ => true
  | .reserved9 _ => true
  | .reservedA _ => true
  | .reservedB _ => true
  | .reservedC _ => true
  | .reservedD _ => true
  | .reservedE _ => true
  | .reservedF _ => true

/-- The opcode is one of the four commands', not one of the twelve reserved ones (R47, R51). -/
def Instr.opcodeAssigned : Instr → Bool
  | .configure _ _ _ _ => true
  | .accessI _ => true
  | .accessD _ => true
  | .endTrace _ => true
  | .reserved0 _ => false
  | .reserved5 _ => false
  | .reserved6 _ => false
  | .reserved7 _ => false
  | .reserved8 _ => false
  | .reserved9 _ => false
  | .reservedA _ => false
  | .reservedB _ => false
  | .reservedC _ => false
  | .reservedD _ => false
  | .reservedE _ => false
  | .reservedF _ => false

/-- A legal command: assigned opcode, reserved bits zero, legal size. -/
def Instr.wellFormed (i : Instr) : Bool :=
  i.opcodeAssigned && i.reservedBitsZero && i.sizeLegal

end Sys2Proof
end

