-- ==== Sys2Proof/Decode.lean ====
section
/-! DEFINITION. The command decoder and encoder (spec 30_encoding.md R46 to R51, R54, R55, R60). The
decoder is total: every 36-bit word is exactly one of the four commands or a reserved opcode. -/

namespace Sys2Proof

/-! ### Enumerations on the command port (R54) -/

/-- `map`: 0 = DirectMapped, 1 = FullyAssociative. -/
def Mapping.ofBit (b : Bool) : Mapping := if b then .fullyAssociative else .directMapped

/-- `map`: the bit that assembles a mapping. -/
def Mapping.toBit : Mapping → BitVec 1
  | .directMapped => 0#1
  | .fullyAssociative => 1#1

/-- `org`: 0 = Unified, 1 = Split. -/
def Organization.ofBit (b : Bool) : Organization := if b then .split else .unified

/-- `org`: the bit that assembles an organization. -/
def Organization.toBit : Organization → BitVec 1
  | .unified => 0#1
  | .split => 1#1

/-- `kind`: 0 = Instruction, 1 = Data. -/
def AccessKind.toBit : AccessKind → BitVec 1
  | .instruction => 0#1
  | .data => 1#1

/-! ### Decoder (R60) -/

/-- Bits 35:32 of a command word. -/
def opField (w : CmdWord) : Opcode := w.extractLsb' 32 4

/-- Bits 31:0 of a command word. -/
def payloadField (w : CmdWord) : Payload := w.extractLsb' 0 32

/-- Format C (R48, R55): size 15:0, map 16, org 17, rsv 31:18. -/
def decodeConfigure (p : Payload) : Instr :=
  .configure (p.extractLsb' 0 16) (Mapping.ofBit (p.getLsbD 16)) (Organization.ofBit (p.getLsbD 17))
    (p.extractLsb' 18 14)

/-- `decode_cmd` (R60): `op` alone selects the command (R47). It never fails. -/
def decodeCmd (w : CmdWord) : Instr :=
  match (opField w).toNat with
  | 0x0 => .reserved0 (payloadField w)
  | 0x1 => decodeConfigure (payloadField w)
  | 0x2 => .accessI (payloadField w)
  | 0x3 => .accessD (payloadField w)
  | 0x4 => .endTrace (payloadField w)
  | 0x5 => .reserved5 (payloadField w)
  | 0x6 => .reserved6 (payloadField w)
  | 0x7 => .reserved7 (payloadField w)
  | 0x8 => .reserved8 (payloadField w)
  | 0x9 => .reserved9 (payloadField w)
  | 0xA => .reservedA (payloadField w)
  | 0xB => .reservedB (payloadField w)
  | 0xC => .reservedC (payloadField w)
  | 0xD => .reservedD (payloadField w)
  | 0xE => .reservedE (payloadField w)
  | _ => .reservedF (payloadField w)

/-- Why a number is no command: there is one command length, 36 bits, and no other (R46). -/
inductive DecodeError where
  /-- The number has a bit above bit 35, or above the bits it was said to have. -/
  | notA36BitWord
deriving DecidableEq, Repr

/-- Decode a number of any size as a command word; one that does not fit is rejected by name
(notes/assumptions/15.md). -/
def decodeNat (nbits w : Nat) : Except DecodeError Instr :=
  if w < 2 ^ 36 ∧ w < 2 ^ nbits then .ok (decodeCmd (BitVec.ofNat 36 w)) else .error .notA36BitWord

/-- What the decoder reads from the word `w` of `nbits` bits, numbered as opcode_table.json numbers
them: bit 0 least significant, as in R7. -/
def decodeTableWord (nbits w : Nat) : Option Instr :=
  match decodeNat nbits w with
  | .ok i => some i
  | .error _ => none

/-! ### Encoder (R46 to R51) -/

/-- The opcode of a command (R47). -/
def Instr.opcode : Instr → Opcode
  | .reserved0 _ => 0x0#4
  | .configure _ _ _ _ => 0x1#4
  | .accessI _ => 0x2#4
  | .accessD _ => 0x3#4
  | .endTrace _ => 0x4#4
  | .reserved5 _ => 0x5#4
  | .reserved6 _ => 0x6#4
  | .reserved7 _ => 0x7#4
  | .reserved8 _ => 0x8#4
  | .reserved9 _ => 0x9#4
  | .reservedA _ => 0xA#4
  | .reservedB _ => 0xB#4
  | .reservedC _ => 0xC#4
  | .reservedD _ => 0xD#4
  | .reservedE _ => 0xE#4
  | .reservedF _ => 0xF#4

/-- The payload of a command (R48, R49, R50, R51). -/
def Instr.payload : Instr → Payload
  | .configure size map org rsv => ((rsv ++ org.toBit) ++ map.toBit) ++ size
  | .accessI addr => addr
  | .accessD addr => addr
  | .endTrace z => z
  | .reserved0 p => p
  | .reserved5 p => p
  | .reserved6 p => p
  | .reserved7 p => p
  | .reserved8 p => p
  | .reserved9 p => p
  | .reservedA p => p
  | .reservedB p => p
  | .reservedC p => p
  | .reservedD p => p
  | .reservedE p => p
  | .reservedF p => p

/-- The word of a command: the frame of R46, `{op, payload}`. -/
def encode (i : Instr) : CmdWord := i.opcode ++ i.payload

end Sys2Proof
end

