-- ==== Sys2Proof/Machine/State.lean ====
section
/-! DEFINITION. The state of CSIM-CORE, as plain data: exactly the rows of spec 10_state.md R15, and
two fields of the model's own (the build parameters and the host's coming port samples,
notes/assumptions/1.md and 2.md). -/

namespace Sys2Proof.Machine

/-- Why the model stops. No command reaches either from a state that satisfies the block's
invariants; the spec allows a model to make each of them a fault of its own. -/
inductive Fault where
  /-- Raised by BankRead and BankWrite for `b >= n_banks` or `i >= bank_length`: "A model may make
  such a call a fault of the model itself; no command can reach it" (20_memory.md R32). Safe. -/
  | bankOutOfRange
  /-- Raised by `compute_fields` when `tag_bits` would underflow: "A model may state the underflow as
  a fault of compute_fields. No accepted CONFIGURE reaches it" (40_address_decoder.md R64). Safe. -/
  | tagBitsUnderflow
deriving DecidableEq, Repr

/-- Why the model gives an instruction no meaning. -/
inductive Refusal where
  /-- Raised by `exec` for an instruction that has no meaning in the model yet. Safe. No arm of
  `exec` raises it: every instruction has its meaning. -/
  | notModelled (mnemonic : String)
deriving DecidableEq, Repr

/-- The life-cycle state (R16). -/
inductive Phase where
  /-- After reset; no configuration is held. -/
  | unconfigured
  /-- A configuration is held and ACCESS commands are processed. -/
  | running
  /-- END_TRACE was accepted; the statistics are final. -/
  | ended
  /-- An error was raised; every command is ignored until reset. -/
  | faulted
deriving DecidableEq, Repr

/-- CacheBlock: one slot of a bank (R20). -/
structure CacheBlock where
  tag   : Tag
  valid : Bool
deriving DecidableEq, Repr

/-- The reset and allocation value of every slot (R20). -/
def CacheBlock.empty : CacheBlock := { tag := 0, valid := false }

/-- One bank's storage, with the ring cursors and flag (R20, R22). With a direct mapping the cursors
and the flag exist and keep their reset values. -/
structure Bank where
  slots  : Vector CacheBlock slotsPerBank
  /-- `start[b]`: the slot of the oldest resident entry. -/
  start  : BitVec 6
  /-- `end[b]`: the slot the next install writes. -/
  end_   : BitVec 6
  /-- `is_full[b]`: all `bank_length` slots hold resident entries. -/
  isFull : Bool
deriving DecidableEq, Repr

/-- A bank as reset leaves it (R116). -/
def Bank.empty : Bank :=
  { slots := Vector.replicate slotsPerBank CacheBlock.empty, start := 0, end_ := 0, isFull := false }

/-- The bank numbers: 0 and 1 (R21). -/
inductive BankId where
  | bank0
  | bank1
deriving DecidableEq, Repr

/-- The configuration registers `cfg_size`, `cfg_mapping`, `cfg_org` (R18). -/
structure CacheConfiguration where
  size    : BitVec 16
  mapping : Mapping
  org     : Organization
deriving DecidableEq, Repr

/-- Reset value of the configuration registers (R18): all 0. -/
def CacheConfiguration.reset : CacheConfiguration :=
  { size := 0, mapping := .directMapped, org := .unified }

/-- The derived registers `offset_bits`, `index_bits`, `tag_bits` (R19). -/
structure AddressFields where
  offsetBits : BitVec 6
  indexBits  : BitVec 6
  tagBits    : BitVec 6
deriving DecidableEq, Repr

/-- Reset value of the derived registers (R19): all 0. -/
def AddressFields.reset : AddressFields := { offsetBits := 0, indexBits := 0, tagBits := 0 }

/-- The counters (R23). -/
structure Statistics where
  accesses : Counter
  hits     : Counter
  evicts   : Counter
deriving DecidableEq, Repr

/-- Reset value of the counters (R23): all 0. -/
def Statistics.zero : Statistics := { accesses := 0, hits := 0, evicts := 0 }

/-- The response registers (R24). -/
structure Response where
  valid  : Bool
  hit    : Bool
  evict  : Bool
  kind   : AccessKind
  offset : BitVec 6
  index  : BitVec 6
  tag    : Tag
deriving DecidableEq, Repr

/-- Reset value of the response registers (R24): all 0. -/
def Response.reset : Response :=
  { valid := false, hit := false, evict := false, kind := .instruction,
    offset := 0, index := 0, tag := 0 }

/-- What the host drives on the input ports when the block looks at them (30_encoding.md R44). -/
structure PortSample where
  rst      : Bool
  cmdValid : Bool
  cmd      : CmdWord
deriving DecidableEq, Repr

/-- The whole machine. -/
structure State where
  /-- `phase` (R16). -/
  phase      : Phase
  /-- `err_code` (R17). -/
  errCode    : BitVec 4
  /-- `err_cmd` (R17). -/
  errCmd     : CmdWord
  /-- `cfg_size`, `cfg_mapping`, `cfg_org` (R18). -/
  cfg        : CacheConfiguration
  /-- `n_banks` (R19). -/
  nBanks     : BitVec 2
  /-- `bank_length` (R19). -/
  bankLength : BitVec 7
  /-- `offset_bits`, `index_bits`, `tag_bits` (R19). -/
  fields     : AddressFields
  /-- Bank 0 (R20, R21, R22). -/
  bank0      : Bank
  /-- Bank 1 (R20, R21, R22). -/
  bank1      : Bank
  /-- `accesses`, `hits`, `evicts` (R23). -/
  stats      : Statistics
  /-- The response registers (R24). -/
  resp       : Response
  /-- The build's parameters: the model's own field (notes/assumptions/2.md). -/
  params     : Params
  /-- The port samples still to come, the next one first: the model's own field
  (notes/assumptions/1.md). -/
  inputs     : List PortSample
deriving DecidableEq, Repr

/-- The state at the end of reset (70_reset_and_hazards.md R116, 10_state.md R15), of a build with the
default parameters, with no input to come. -/
def State.reset : State :=
  { phase := .unconfigured
    errCode := 0
    errCmd := 0
    cfg := CacheConfiguration.reset
    nBanks := 0
    bankLength := 0
    fields := AddressFields.reset
    bank0 := Bank.empty
    bank1 := Bank.empty
    stats := Statistics.zero
    resp := Response.reset
    params := Params.default
    inputs := [] }

end Sys2Proof.Machine
end

