-- ==== Sys2Proof/Machine/Flags.lean ====
section
/-! DEFINITION. The block's flags and the geometry of the ring they describe (spec 10_state.md R25;
42_associative_bank.md R76, R77, R79). It has no condition codes. -/

namespace Sys2Proof.Machine

/-- `HitOrMiss` (R10). -/
inductive HitOrMiss where
  | hit
  | miss
deriving DecidableEq, Repr

/-- What one lookup-or-install returns: `(HitOrMiss, evicted)` (R71, R80). -/
structure LookupResult where
  result  : HitOrMiss
  evicted : Bool
deriving DecidableEq, Repr

/-- `result = Hit`, the value of `resp_hit` (R54, R94). -/
def HitOrMiss.isHit : HitOrMiss → Bool
  | .hit => true
  | .miss => false

/-- The bank is empty: `start = end` and not full (R76). -/
def Bank.isEmpty (bk : Bank) : Bool := !bk.isFull && bk.start == bk.end_

/-- `x mod L` of an integer, non-negative for `L > 0` (R7; notes/assumptions/17.md). -/
def ringMod (x : Int) (L : Nat) : Nat := (x % (L : Int)).toNat

/-- `occ(b)`: how many entries are resident in a ring of length `L` (R77). -/
def Bank.occupancy (bk : Bank) (L : Nat) : Nat :=
  if bk.isFull then L else ringMod ((bk.end_.toNat : Int) - (bk.start.toNat : Int)) L

/-- `slot(b, k)`: the slot of the `k`-th resident entry, counted from the oldest (R77). -/
def Bank.slotIndex (bk : Bank) (L k : Nat) : Nat := (bk.start.toNat + k) % L

/-- A cursor moved on by one, `(c + 1) mod L` (R79). -/
def advanceCursor (c : BitVec 6) (L : Nat) : BitVec 6 := BitVec.ofNat 6 ((c.toNat + 1) % L)

/-- `is_full <- (end = start)`, as every install recomputes it (R25, R79). -/
def ringFull (end_ start : BitVec 6) : Bool := end_ == start

end Sys2Proof.Machine
end

