-- ==== Sys2Proof/Machine/Operands.lean ====
section
/-! DEFINITION. The operands of the commands: the configuration's derived values (spec
40_address_decoder.md R61 to R65, 44_control_commands.md R98) and the address fields
(R66 to R69, 00_scope.md R8). -/

namespace Sys2Proof.Machine

/-- `mask(n)`: the low `n` bits are 1; `mask(0) = 0` (R8). -/
def mask (n : Nat) : BitVec 32 := BitVec.ofNat 32 (2 ^ n - 1)

/-- `n_banks` of an organization: 1 for Unified, 2 for Split (R61). -/
def bankCountOf : Organization → Nat
  | .unified => 1
  | .split => 2

/-- `bank_length` of a size and an organization (R61). -/
def bankLengthOf (size : BitVec 16) : Organization → Nat
  | .unified => size.toNat / blockSizeBytes
  | .split => size.toNat / blockSizeBytes / 2

/-- The loop of `count_significant_bits` (R62); `fuel` bounds the number of turns. -/
def countShifts : (fuel n c : Nat) → Nat
  | 0, _, c => c
  | fuel + 1, n, c => if n > 1 then countShifts fuel (n >>> 1) (c + 1) else c

/-- `count_significant_bits(n)`: the number of right shifts that bring `n` down to 1 (R62). No `n`
needs more than `n` turns (notes/assumptions/9.md). -/
def countSignificantBits (n : Nat) : Nat := countShifts n n 0

/-- `index_bits` of a bank length and a mapping (R63). -/
def indexBitsOf (bankLength : Nat) : Mapping → Nat
  | .directMapped => countSignificantBits bankLength
  | .fullyAssociative => 0

/-- `compute_fields(bank_length, mapping)` (R63). The underflow of `tag_bits` is a fault of the model
(R64; notes/assumptions/7.md). -/
def computeFields (bankLength : Nat) (mapping : Mapping) : Except Fault AddressFields :=
  let indexBits := indexBitsOf bankLength mapping
  if offsetBitsFixed + indexBits ≤ addrWidth then
    .ok { offsetBits := BitVec.ofNat 6 offsetBitsFixed
          indexBits := BitVec.ofNat 6 indexBits
          tagBits := BitVec.ofNat 6 (addrWidth - offsetBitsFixed - indexBits) }
  else
    .error .tagBitsUnderflow

/-- `config_valid(size, rsv)` (R98): no reserved bit, and a power of two in 128..4096. -/
def configValid (size : BitVec 16) (rsv : BitVec 14) : Bool :=
  rsv == 0 && (decide (128 ≤ size.toNat) && (decide (size.toNat ≤ 4096) && (size &&& (size - 1)) == 0))

/-- An address split into its three fields, each zero-extended to 32 bits
(notes/assumptions/16.md). -/
structure AddressParts where
  offset : BitVec 32
  index  : BitVec 32
  tag    : BitVec 32
deriving DecidableEq, Repr

/-- `decode(address, fields)` (R66): the source's three formulas. -/
def decodeAddress (address : Addr) (f : AddressFields) : AddressParts :=
  { offset := address &&& mask f.offsetBits.toNat
    index := (address >>> f.offsetBits.toNat) &&& mask f.indexBits.toNat
    tag := (address >>> (f.offsetBits.toNat + f.indexBits.toNat)) &&& mask f.tagBits.toNat }

/-- The tag as the 26-bit tag store and the response register hold it (R20, R94). -/
def AddressParts.tag26 (p : AddressParts) : Tag := p.tag.setWidth 26

end Sys2Proof.Machine
end

