-- ==== Sys2Proof/Machine/Ops.lean ====
section
/-! DEFINITION. The named operations every command shares: raising an error and the reset that returns
from it (spec 60_exceptions.md R102, R103, R108; 70_reset_and_hazards.md R116), the bank primitives
(20_memory.md R32), the counters (43_dispatcher_statistics.md R90 to R92) and the response (R94). -/

namespace Sys2Proof.Machine

/-! ### Errors -/

/-- The named errors of R102. MALFORMED_RECORD is set aside for the host: the block never raises it. -/
inductive BlockError where
  | configError
  | allocationError
  | malformedRecord
  | illegalCommand
  | notConfigured
  | alreadyConfigured
  | traceEnded
  | counterOverflow
deriving DecidableEq, Repr

/-- The code of an error, as `err_code` holds it (R102). Code 0 is NONE. -/
def BlockError.code : BlockError → BitVec 4
  | .configError => 1
  | .allocationError => 2
  | .malformedRecord => 3
  | .illegalCommand => 4
  | .notConfigured => 5
  | .alreadyConfigured => 6
  | .traceEnded => 7
  | .counterOverflow => 8

/-- `raise E(cmd)`, the one fault entry (R103): three writes, and nothing else of the command takes
effect. The recorded value is the whole command word (R102). -/
def raiseError (e : BlockError) (cmd : CmdWord) (s : State) : State :=
  { s with errCode := e.code, errCmd := cmd, phase := .faulted }

/-- Reset (R116), the only return from a fault (R108). What the host offers next and the build's
parameters are not the block's state (notes/assumptions/2.md and 8.md). -/
def applyReset (s : State) : State :=
  { State.reset with params := s.params, inputs := s.inputs }

/-! ### Banks -/

/-- The number of a bank (R21). -/
def BankId.number : BankId → Nat
  | .bank0 => 0
  | .bank1 => 1

/-- The bank of a number. -/
def State.bank (s : State) : BankId → Bank
  | .bank0 => s.bank0
  | .bank1 => s.bank1

/-- Replace one bank. -/
def State.setBank (s : State) (b : BankId) (bk : Bank) : State :=
  match b with
  | .bank0 => { s with bank0 := bk }
  | .bank1 => { s with bank1 := bk }

/-- `L`, the length of every bank (R19). -/
abbrev State.ringLength (s : State) : Nat := s.bankLength.toNat

/-- `b < n_banks and i < bank_length`, what BankRead and BankWrite require (R32), within the storage
a bank has. -/
def State.inBank (s : State) (b : BankId) (i : Nat) : Bool :=
  decide (b.number < s.nBanks.toNat) && (decide (i < s.ringLength) && decide (i < slotsPerBank))

/-- `BankRead(b, i)` (R32; notes/assumptions/6.md). -/
def bankRead (s : State) (b : BankId) (i : Nat) : Except Fault CacheBlock :=
  if s.inBank b i then .ok ((s.bank b).slots[i]?.getD CacheBlock.empty) else .error .bankOutOfRange

/-- `BankWrite(b, i, blk)` (R32; notes/assumptions/6.md). -/
def bankWrite (s : State) (b : BankId) (i : Nat) (blk : CacheBlock) : Except Fault State :=
  if s.inBank b i then
    .ok (s.setBank b { s.bank b with slots := (s.bank b).slots.setIfInBounds i blk })
  else
    .error .bankOutOfRange

/-- `start[b] <- c` (R22). -/
def State.setStart (s : State) (b : BankId) (c : BitVec 6) : State :=
  s.setBank b { s.bank b with start := c }

/-- `end[b] <- c` (R22). -/
def State.setEnd (s : State) (b : BankId) (c : BitVec 6) : State :=
  s.setBank b { s.bank b with end_ := c }

/-- `is_full[b] <- f` (R22, R25). -/
def State.setFull (s : State) (b : BankId) (f : Bool) : State :=
  s.setBank b { s.bank b with isFull := f }

/-! ### Counters -/

/-- The largest value of a counter, `2^64 - 1` (R23, R88). -/
def counterMax : Counter := BitVec.allOnes 64

/-- `record_access()` (R90). -/
def recordAccess (s : State) : State :=
  { s with stats := { s.stats with accesses := s.stats.accesses + 1 } }

/-- `record_hit()` (R91). -/
def recordHit (s : State) : State :=
  { s with stats := { s.stats with hits := s.stats.hits + 1 } }

/-- `record_evict()` (R92). -/
def recordEvict (s : State) : State :=
  { s with stats := { s.stats with evicts := s.stats.evicts + 1 } }

/-- The counter updates of one access, in the order `process` makes them (R87). -/
def recordOutcome (r : LookupResult) (s : State) : State :=
  let s := if r.evicted then recordEvict s else s
  let s := recordAccess s
  if r.result.isHit then recordHit s else s

/-! ### Response -/

/-- `emit resp(...)` (R94): the fields are held zero-extended, `resp_index` in 6 bits and `resp_tag` in
26 (R52). -/
def respond (r : LookupResult) (kind : AccessKind) (p : AddressParts) (s : State) : State :=
  { s with
    resp :=
      { valid := true
        hit := r.result.isHit
        evict := r.evicted
        kind := kind
        offset := p.offset.setWidth 6
        index := p.index.setWidth 6
        tag := p.tag26 } }

end Sys2Proof.Machine
end

