-- ==== Sys2Proof/Machine/Associative.lean ====
section
/-! DEFINITION. The FIFO fully-associative engine (spec 42_associative_bank.md R76 to R85). -/

namespace Sys2Proof.Machine

/-- The scan of `fa_contains` (R78): `n` slots from the `k`-th resident one on, first match wins. -/
def faScan (s : State) (b : BankId) (tag : Tag) : (n k : Nat) → Except Fault Bool
  | 0, _ => .ok false
  | n + 1, k =>
    match bankRead s b ((s.bank b).slotIndex s.ringLength k) with
    | .error f => .error f
    | .ok blk => if blk.valid = true ∧ blk.tag = tag then .ok true else faScan s b tag n (k + 1)

/-- `fa_contains(b, tag)` (R78): an empty bank answers at once; else the resident slots are scanned
from the oldest, each once. -/
def faContains (b : BankId) (tag : Tag) (s : State) : Except Fault Bool :=
  if (s.bank b).isEmpty then .ok false
  else faScan s b tag ((s.bank b).occupancy s.ringLength) 0

/-- The parallel compare an implementation may use instead (R85): some slot `j < L` is valid and holds
the tag. `faContains` is the reference (notes/assumptions/12.md). -/
def faContainsParallel (b : BankId) (tag : Tag) (s : State) : Bool :=
  (List.range s.ringLength).any fun j =>
    let blk := (s.bank b).slots[j]?.getD CacheBlock.empty
    blk.valid && blk.tag == tag

/-- The first lines of `fa_install` (R79): a full ring discards its oldest entry. -/
def faDiscardOldest (b : BankId) (s : State) : State :=
  if (s.bank b).isFull then s.setStart b (advanceCursor (s.bank b).start s.ringLength) else s

/-- The last lines of `fa_install` (R79): `end` moves on and `is_full` is recomputed. -/
def faCloseInstall (b : BankId) (s : State) : State :=
  let t := s.setEnd b (advanceCursor (s.bank b).end_ s.ringLength)
  t.setFull b (ringFull (t.bank b).end_ (t.bank b).start)

/-- `fa_install(b, tag)` (R79), in the source's order; it answers whether an entry was evicted. -/
def faInstall (b : BankId) (tag : Tag) (s : State) : Except Fault (Bool × State) :=
  let evicted := (s.bank b).isFull
  let t := faDiscardOldest b s
  match bankWrite t b (t.bank b).end_.toNat { tag := tag, valid := true } with
  | .error f => .error f
  | .ok u => .ok (evicted, faCloseInstall b u)

/-- `fa_lookup_or_install(b, tag)` (R80): a Hit mutates nothing; a Miss installs. -/
def faLookupOrInstall (b : BankId) (tag : Tag) (s : State) :
    Except Fault (LookupResult × State) :=
  match faContains b tag s with
  | .error f => .error f
  | .ok true => .ok ({ result := .hit, evicted := false }, s)
  | .ok false =>
    match faInstall b tag s with
    | .error f => .error f
    | .ok (evicted, t) => .ok ({ result := .miss, evicted := evicted }, t)

end Sys2Proof.Machine
end

