-- ==== Sys2Proof/Machine/DirectMapped.lean ====
section
/-! DEFINITION. The direct-mapped lookup-and-install engine (spec 41_direct_mapped_bank.md R71 to R75). -/

namespace Sys2Proof.Machine

/-- `dm_lookup_or_install(b, index, tag)` (R71): the three cases in the source's order. `valid` is
tested before the tag is compared. -/
def dmLookupOrInstall (b : BankId) (index : Nat) (tag : Tag) (s : State) :
    Except Fault (LookupResult × State) :=
  match bankRead s b index with
  | .error f => .error f
  | .ok blk =>
    if blk.valid = false then
      match bankWrite s b index { tag := tag, valid := true } with
      | .error f => .error f
      | .ok t => .ok ({ result := .miss, evicted := false }, t)
    else if blk.tag = tag then
      .ok ({ result := .hit, evicted := false }, s)
    else
      match bankWrite s b index { tag := tag, valid := true } with
      | .error f => .error f
      | .ok t => .ok ({ result := .miss, evicted := true }, t)

end Sys2Proof.Machine
end

