-- ==== Sys2Proof/Machine/Access.lean ====
section
/-! DEFINITION. The dispatcher and the two ACCESS commands (spec 43_dispatcher_statistics.md R86 to
R94; 60_exceptions.md R104, R105). -/

namespace Sys2Proof.Machine

/-- `bank_of(kind)` (R86, R21). -/
def bankOf (org : Organization) (kind : AccessKind) : BankId :=
  match org, kind with
  | .unified, _ => .bank0
  | .split, .instruction => .bank0
  | .split, .data => .bank1

/-- The bank's `lookup_or_install`, by the configured mapping (R87). -/
def lookupOrInstall (b : BankId) (p : AddressParts) (s : State) :
    Except Fault (LookupResult × State) :=
  match s.cfg.mapping with
  | .directMapped => dmLookupOrInstall b p.index.toNat p.tag26 s
  | .fullyAssociative => faLookupOrInstall b p.tag26 s

/-- `process(kind, address)` (R87): decode, lookup or install, count. -/
def process (kind : AccessKind) (address : Addr) (s : State) :
    Except Fault (LookupResult × AddressParts × State) :=
  let p := decodeAddress address s.fields
  match lookupOrInstall (bankOf s.cfg.org kind) p s with
  | .error f => .error f
  | .ok (r, t) => .ok (r, p, recordOutcome r t)

/-- One access that has passed its checks: `process`, then `emit resp` (R88, R94). -/
def performAccess (kind : AccessKind) (address : Addr) (s : State) :
    Host.Outcome State Fault Refusal :=
  match process kind address s with
  | .error f => .fault f
  | .ok (r, p, t) => .next (respond r kind p t)

/-- The checks of an ACCESS in their order, and then the access (R88, R105). -/
def accessCommand (kind : AccessKind) (address : Addr) (cmd : CmdWord) (s : State) :
    Host.Outcome State Fault Refusal :=
  match s.phase with
  | .faulted => .next s
  | .unconfigured => .next (raiseError .notConfigured cmd s)
  | .ended => .next (raiseError .traceEnded cmd s)
  | .running =>
    if s.stats.accesses = counterMax then .next (raiseError .counterOverflow cmd s)
    else performAccess kind address s

/-- `ACCESS_I addr` (R88). -/
def execAccessI (addr : Addr) (s : State) : Host.Outcome State Fault Refusal :=
  accessCommand .instruction addr (encode (.accessI addr)) s

/-- `ACCESS_D addr` (R89). -/
def execAccessD (addr : Addr) (s : State) : Host.Outcome State Fault Refusal :=
  accessCommand .data addr (encode (.accessD addr)) s

end Sys2Proof.Machine
end

