-- ==== Sys2Proof/Machine/Control.lean ====
section
/-! DEFINITION. The control commands CONFIGURE and END_TRACE (spec 44_control_commands.md R97, R98,
R99; 60_exceptions.md R104, R105). -/

namespace Sys2Proof.Machine

/-- One bank's share of CONFIGURE's allocation loop (R97): slots `0 .. L-1` become `{tag: 0, valid:
false}`, and the cursors and the flag are cleared (notes/assumptions/18.md). -/
def Bank.allocate (L : Nat) (bk : Bank) : Bank :=
  { slots := Vector.ofFn fun (i : Fin slotsPerBank) => if i.val < L then CacheBlock.empty else bk.slots[i]
    start := 0
    end_ := 0
    isFull := false }

/-- CONFIGURE's allocation loop `for b in 0 .. nb-1` (R97). -/
def allocateBanks (nb L : Nat) (s : State) : State :=
  { s with
    bank0 := if BankId.bank0.number < nb then s.bank0.allocate L else s.bank0
    bank1 := if BankId.bank1.number < nb then s.bank1.allocate L else s.bank1 }

/-- The writes of a CONFIGURE that has passed its checks (R97). -/
def performConfigure (size : BitVec 16) (map : Mapping) (org : Organization) (s : State) :
    Host.Outcome State Fault Refusal :=
  let nb := bankCountOf org
  let L := bankLengthOf size org
  match computeFields L map with
  | .error f => .fault f
  | .ok fields =>
    .next
      { allocateBanks nb L s with
        cfg := { size := size, mapping := map, org := org }
        nBanks := BitVec.ofNat 2 nb
        bankLength := BitVec.ofNat 7 L
        fields := fields
        stats := Statistics.zero
        phase := .running }

/-- The checks of CONFIGURE after the phase checks: the operands, then the capacity (R97, R105). -/
def configureUnconfigured (size : BitVec 16) (map : Mapping) (org : Organization)
    (rsv : BitVec 14) (cmd : CmdWord) (s : State) : Host.Outcome State Fault Refusal :=
  if configValid size rsv = false then .next (raiseError .configError cmd s)
  else if bankCountOf org * bankLengthOf size org > s.params.maxBlocks then
    .next (raiseError .allocationError cmd s)
  else performConfigure size map org s

/-- `CONFIGURE size, map, org` (R97). -/
def execConfigure (size : BitVec 16) (map : Mapping) (org : Organization) (rsv : BitVec 14)
    (s : State) : Host.Outcome State Fault Refusal :=
  match s.phase with
  | .faulted => .next s
  | .running => .next (raiseError .alreadyConfigured (encode (.configure size map org rsv)) s)
  | .ended => .next (raiseError .alreadyConfigured (encode (.configure size map org rsv)) s)
  | .unconfigured =>
    configureUnconfigured size map org rsv (encode (.configure size map org rsv)) s

/-- `END_TRACE` (R99): `phase` is the only write. -/
def execEndTrace (z : BitVec 32) (s : State) : Host.Outcome State Fault Refusal :=
  match s.phase with
  | .faulted => .next s
  | .unconfigured => .next (raiseError .notConfigured (encode (.endTrace z)) s)
  | .ended => .next (raiseError .traceEnded (encode (.endTrace z)) s)
  | .running =>
    if z = 0 then .next { s with phase := .ended }
    else .next (raiseError .illegalCommand (encode (.endTrace z)) s)

end Sys2Proof.Machine
end

