-- ==== Sys2Proof/Machine/Reserved.lean ====
section
/-! DEFINITION. The twelve reserved opcodes (spec 44_control_commands.md R100; 30_encoding.md R51). Each
raises ILLEGAL_COMMAND in every phase but FAULTED; the payload is ignored, and recorded. -/

namespace Sys2Proof.Machine

/-- The rule all reserved opcodes share (R100): no phase check but FAULTED comes first. -/
def reservedCommand (cmd : CmdWord) (s : State) : Host.Outcome State Fault Refusal :=
  match s.phase with
  | .faulted => .next s
  | .unconfigured => .next (raiseError .illegalCommand cmd s)
  | .running => .next (raiseError .illegalCommand cmd s)
  | .ended => .next (raiseError .illegalCommand cmd s)

/-- Reserved opcode 0x0 (R100). -/
def execReserved0 (payload : Payload) (s : State) : Host.Outcome State Fault Refusal :=
  reservedCommand (encode (.reserved0 payload)) s

/-- Reserved opcode 0x5 (R100). -/
def execReserved5 (payload : Payload) (s : State) : Host.Outcome State Fault Refusal :=
  reservedCommand (encode (.reserved5 payload)) s

/-- Reserved opcode 0x6 (R100). -/
def execReserved6 (payload : Payload) (s : State) : Host.Outcome State Fault Refusal :=
  reservedCommand (encode (.reserved6 payload)) s

/-- Reserved opcode 0x7 (R100). -/
def execReserved7 (payload : Payload) (s : State) : Host.Outcome State Fault Refusal :=
  reservedCommand (encode (.reserved7 payload)) s

/-- Reserved opcode 0x8 (R100). -/
def execReserved8 (payload : Payload) (s : State) : Host.Outcome State Fault Refusal :=
  reservedCommand (encode (.reserved8 payload)) s

/-- Reserved opcode 0x9 (R100). -/
def execReserved9 (payload : Payload) (s : State) : Host.Outcome State Fault Refusal :=
  reservedCommand (encode (.reserved9 payload)) s

/-- Reserved opcode 0xA (R100). -/
def execReservedA (payload : Payload) (s : State) : Host.Outcome State Fault Refusal :=
  reservedCommand (encode (.reservedA payload)) s

/-- Reserved opcode 0xB (R100). -/
def execReservedB (payload : Payload) (s : State) : Host.Outcome State Fault Refusal :=
  reservedCommand (encode (.reservedB payload)) s

/-- Reserved opcode 0xC (R100). -/
def execReservedC (payload : Payload) (s : State) : Host.Outcome State Fault Refusal :=
  reservedCommand (encode (.reservedC payload)) s

/-- Reserved opcode 0xD (R100). -/
def execReservedD (payload : Payload) (s : State) : Host.Outcome State Fault Refusal :=
  reservedCommand (encode (.reservedD payload)) s

/-- Reserved opcode 0xE (R100). -/
def execReservedE (payload : Payload) (s : State) : Host.Outcome State Fault Refusal :=
  reservedCommand (encode (.reservedE payload)) s

/-- Reserved opcode 0xF (R100). -/
def execReservedF (payload : Payload) (s : State) : Host.Outcome State Fault Refusal :=
  reservedCommand (encode (.reservedF payload)) s

end Sys2Proof.Machine
end

