-- ==== Sys2Proof/Machine/Dispatch.lean ====
section
/-! DEFINITION. One arm per row of spec/opcode_table.json, each one call of that command's meaning. -/

namespace Sys2Proof.Machine

def exec (i : Instr) (s : State) : Host.Outcome State Fault Refusal :=
  match i with
  | .configure size map org rsv => Sys2Proof.Machine.execConfigure size map org rsv s
  | .accessI addr => Sys2Proof.Machine.execAccessI addr s
  | .accessD addr => Sys2Proof.Machine.execAccessD addr s
  | .endTrace z => Sys2Proof.Machine.execEndTrace z s
  | .reserved0 payload => Sys2Proof.Machine.execReserved0 payload s
  | .reserved5 payload => Sys2Proof.Machine.execReserved5 payload s
  | .reserved6 payload => Sys2Proof.Machine.execReserved6 payload s
  | .reserved7 payload => Sys2Proof.Machine.execReserved7 payload s
  | .reserved8 payload => Sys2Proof.Machine.execReserved8 payload s
  | .reserved9 payload => Sys2Proof.Machine.execReserved9 payload s
  | .reservedA payload => Sys2Proof.Machine.execReservedA payload s
  | .reservedB payload => Sys2Proof.Machine.execReservedB payload s
  | .reservedC payload => Sys2Proof.Machine.execReservedC payload s
  | .reservedD payload => Sys2Proof.Machine.execReservedD payload s
  | .reservedE payload => Sys2Proof.Machine.execReservedE payload s
  | .reservedF payload => Sys2Proof.Machine.execReservedF payload s

end Sys2Proof.Machine
end

