-- ==== Sys2Proof/Machine/Inputs.lean ====
section
/-! DEFINITION. The input ports: what the block does with one port sample (spec 30_encoding.md R44, R45;
70_reset_and_hazards.md R116; 60_exceptions.md R115), and the runs a host drives
(70_reset_and_hazards.md R119). -/

namespace Sys2Proof.Machine

/-- The host offers one command (R45). -/
def offerCommand (w : CmdWord) : PortSample := { rst := false, cmdValid := true, cmd := w }

/-- The host asserts `rst` (R116). -/
def assertReset : PortSample := { rst := true, cmdValid := false, cmd := 0 }

/-- The host offers nothing (R115). -/
def offerNothing : PortSample := { rst := false, cmdValid := false, cmd := 0 }

/-- What one port sample does. While `rst = 1` the block accepts no command (R116); else a command is
accepted when `cmd_valid = 1` and is performed to completion (R45); else all state is held (R115).
See notes/assumptions/8.md. -/
def takeSample (p : PortSample) (s : State) : Host.Outcome State Fault Refusal :=
  if p.rst then .next (applyReset s)
  else if p.cmdValid then exec (decodeCmd p.cmd) s
  else .next s

/-- One trace record: `{ address, access_kind }` (R30, R12 "Access record"). -/
structure AccessRecord where
  kind    : AccessKind
  address : Addr
deriving DecidableEq, Repr

/-- The command of a trace record (R119 step 3, R59). -/
def AccessRecord.command (r : AccessRecord) : Instr :=
  match r.kind with
  | .instruction => .accessI r.address
  | .data => .accessD r.address

/-- The samples that offer a list of commands, one after the other. -/
def offerAll (cmds : List Instr) : List PortSample := cmds.map fun i => offerCommand (encode i)

/-- The well-formed run of R119, steps 1 to 4: reset, one CONFIGURE, one ACCESS per record in trace
order, one END_TRACE. -/
def wellFormedRun (size : BitVec 16) (map : Mapping) (org : Organization)
    (records : List AccessRecord) : List PortSample :=
  assertReset ::
    offerAll (.configure size map org 0 :: records.map AccessRecord.command ++ [.endTrace 0])

end Sys2Proof.Machine
end

