-- ==== Sys2Proof/Machine/Step.lean ====
section
/-! DEFINITION. One step of the machine: the block looks at its input ports once and completes what they
ask (spec 30_encoding.md R45, 20_memory.md R35). -/

namespace Sys2Proof.Machine

/-- One step (R45). With no port sample to come the block idles (60_exceptions.md R115). -/
def step (s : State) : Host.Outcome State Fault Refusal :=
  match s.inputs with
  | [] => .next s
  | sample :: rest => takeSample sample { s with inputs := rest }

/-- `s` with a command offered as the next port sample, so that the next step accepts it: the word has
the `nbits` bits of `w`, and every bit above them is 0. -/
def State.withFetchWord (s : State) (nbits w : Nat) : State :=
  { s with inputs := offerCommand (BitVec.ofNat 36 (w % 2 ^ nbits)) :: s.inputs }

end Sys2Proof.Machine
end

