-- ==== Sys2Proof/Machine/Assembler.lean ====
section
/-! DEFINITION. The spelling of the commands (spec 30_encoding.md R58) and the trace-line
pseudo-instructions (R59). Mnemonics and keywords are case-insensitive. A line is a list of characters;
how it is cut into words is the model's choice (notes/assumptions/14.md). -/

namespace Sys2Proof.Machine

/-- Why the assembler refuses a line. -/
inductive AsmError where
  /-- The line is none of the forms of R58 and R59. -/
  | notACommand
  /-- An address is not 1 to 8 hex digits with an optional 0x prefix (R58). -/
  | badAddress
  /-- A size is not a decimal or 0x-hex number (R58). -/
  | badSize
  /-- "An assembler refuses a <size> above 0xFFFF, because it does not fit the field" (R58). -/
  | sizeDoesNotFit
deriving DecidableEq, Repr

/-- A letter in upper case: spelling is case-insensitive (R58). -/
def upperCase (c : Char) : Char :=
  if 97 ≤ c.toNat ∧ c.toNat ≤ 122 then Char.ofNat (c.toNat - 32) else c

/-- Close the word read so far (kept in reverse), if there is one. -/
def flushWord (cur : List Char) (rest : List (List Char)) : List (List Char) :=
  match cur with
  | [] => rest
  | _ :: _ => cur.reverse :: rest

/-- The words of a line, in upper case: blanks separate words, and a comma is a word of its own. -/
def wordsOf : List Char → List Char → List (List Char)
  | [], cur => flushWord cur []
  | c :: cs, cur =>
    if c = ' ' then flushWord cur (wordsOf cs [])
    else if c = ',' then flushWord cur ([','] :: wordsOf cs [])
    else wordsOf cs (upperCase c :: cur)

/-- The value of a hex digit, in upper case. -/
def hexDigit (c : Char) : Option Nat :=
  if 48 ≤ c.toNat ∧ c.toNat ≤ 57 then some (c.toNat - 48)
  else if 65 ≤ c.toNat ∧ c.toNat ≤ 70 then some (c.toNat - 55)
  else none

/-- The number a list of digits spells in a base, the first digit most significant. -/
def digitsValue (base : Nat) : List Char → Nat → Option Nat
  | [], acc => some acc
  | c :: cs, acc =>
    match hexDigit c with
    | none => none
    | some d => if d < base then digitsValue base cs (base * acc + d) else none

/-- A number of at least one digit. -/
def numberOf (base : Nat) : List Char → Option Nat
  | [] => none
  | c :: cs => digitsValue base (c :: cs) 0

/-- `<addr>`: 1 to 8 hex digits, optional 0x prefix (R58). -/
def addressOf (word : List Char) : Except AsmError Addr :=
  let digits := match word with
    | '0' :: 'X' :: ds => ds
    | ds => ds
  match numberOf 16 digits with
  | some v => if digits.length ≤ 8 then .ok (BitVec.ofNat 32 v) else .error .badAddress
  | none => .error .badAddress

/-- `<size>`: decimal bytes, or 0x-hex (R58). -/
def sizeOf (word : List Char) : Except AsmError (BitVec 16) :=
  let value := match word with
    | '0' :: 'X' :: ds => numberOf 16 ds
    | ds => numberOf 10 ds
  match value with
  | some v => if v ≤ 0xFFFF then .ok (BitVec.ofNat 16 v) else .error .sizeDoesNotFit
  | none => .error .badSize

/-- The words CONFIGURE, ACCESS_I, ACCESS_D and END_TRACE, and the keywords (R58). -/
def kwConfigure : List Char := ['C', 'O', 'N', 'F', 'I', 'G', 'U', 'R', 'E']
def kwAccessI : List Char := ['A', 'C', 'C', 'E', 'S', 'S', '_', 'I']
def kwAccessD : List Char := ['A', 'C', 'C', 'E', 'S', 'S', '_', 'D']
def kwEndTrace : List Char := ['E', 'N', 'D', '_', 'T', 'R', 'A', 'C', 'E']
def kwUnified : List Char := ['U', 'N', 'I', 'F', 'I', 'E', 'D']
def kwSplit : List Char := ['S', 'P', 'L', 'I', 'T']

/-- `DM` or `FA` (R58). -/
def mappingOf (word : List Char) : Except AsmError Mapping :=
  if word = ['D', 'M'] then .ok .directMapped
  else if word = ['F', 'A'] then .ok .fullyAssociative
  else .error .notACommand

/-- `UNIFIED` or `SPLIT` (R58). -/
def organizationOf (word : List Char) : Except AsmError Organization :=
  if word = kwUnified then .ok .unified
  else if word = kwSplit then .ok .split
  else .error .notACommand

/-- CONFIGURE's three operands, the reserved bits 0 (R58). Any size that fits is assembled, "so that the
error path can be written down". -/
def assembleConfigure (size map org : List Char) : Except AsmError Instr :=
  match sizeOf size, mappingOf map, organizationOf org with
  | .ok s, .ok m, .ok o => .ok (.configure s m o 0)
  | .error e, _, _ => .error e
  | _, .error e, _ => .error e
  | _, _, .error e => .error e

/-- An access of one kind. -/
def assembleAccess (kind : AccessKind) (addr : List Char) : Except AsmError Instr :=
  match addressOf addr with
  | .ok a => .ok (AccessRecord.command { kind := kind, address := a })
  | .error e => .error e

/-- The command of a line's words: R58's four forms, and R59's `I <hex>` and `D <hex>`. -/
def assembleWords : List (List Char) → Except AsmError Instr
  | [kw] => if kw = kwEndTrace then .ok (.endTrace 0) else .error .notACommand
  | [kw, addr] =>
    if kw = kwAccessI ∨ kw = ['I'] then assembleAccess .instruction addr
    else if kw = kwAccessD ∨ kw = ['D'] then assembleAccess .data addr
    else .error .notACommand
  | [kw, size, comma₁, map, comma₂, org] =>
    if kw = kwConfigure ∧ comma₁ = [','] ∧ comma₂ = [','] then assembleConfigure size map org
    else .error .notACommand
  | _ => .error .notACommand

/-- Assemble one line. -/
def assembleLine (line : List Char) : Except AsmError Instr := assembleWords (wordsOf line [])

/-- The access record of a trace line `<'I'|'D'> <space> <hex address>` (R59). -/
def traceLine (line : List Char) : Except AsmError AccessRecord :=
  match wordsOf line [] with
  | [kw, addr] =>
    match addressOf addr with
    | .error e => .error e
    | .ok a =>
      if kw = ['I'] then .ok { kind := .instruction, address := a }
      else if kw = ['D'] then .ok { kind := .data, address := a }
      else .error .notACommand
  | _ => .error .notACommand

/-- The commands of a trace file: one ACCESS per line, followed by one END_TRACE (R59). -/
def assembleTrace : List (List Char) → Except AsmError (List Instr)
  | [] => .ok [.endTrace 0]
  | line :: lines =>
    match traceLine line, assembleTrace lines with
    | .ok r, .ok is => .ok (r.command :: is)
    | .error e, _ => .error e
    | _, .error e => .error e

end Sys2Proof.Machine
end

