-- ==== Sys2Proof/Machine/Outputs.lean ====
section
/-! DEFINITION. The output ports (spec 30_encoding.md R44, R45, R52 to R54), the figures a host derives
from them (43_dispatcher_statistics.md R95, R96) and the end of a run (70_reset_and_hazards.md R127).
Reading an output has no effect (20_memory.md R43): each is a function of the state. -/

namespace Sys2Proof.Machine

/-- `phase` on its port (R54). -/
def Phase.code : Phase → BitVec 2
  | .unconfigured => 0
  | .running => 1
  | .ended => 2
  | .faulted => 3

/-- The output ports of R44 but `cmd_ready`, each with its width. -/
structure PortValues where
  respValid    : BitVec 1
  respHit      : BitVec 1
  respEvict    : BitVec 1
  respKind     : BitVec 1
  respOffset   : BitVec 6
  respIndex    : BitVec 6
  respTag      : BitVec 26
  phase        : BitVec 2
  errCode      : BitVec 4
  errCmd       : BitVec 36
  fault        : BitVec 1
  statAccesses : BitVec 64
  statHits     : BitVec 64
  statEvicts   : BitVec 64
deriving DecidableEq, Repr

/-- What a host can read: `cmd_ready`, and the other ports where a read of them has a defined value
(R123, U4). -/
structure Outputs where
  cmdReady : BitVec 1
  /-- `none`: a read now has no defined value, which U4 asks of a model while `cmd_ready = 0`. -/
  read     : Option PortValues
deriving DecidableEq, Repr

/-- `rst = 1` on the ports now. -/
def State.rstAsserted (s : State) : Bool :=
  match s.inputs with
  | [] => false
  | p :: _ => p.rst

/-- What the state drives onto the ports (R52, R53, R54). What a host may rely on reading is
`State.outputs`. -/
def State.portValues (s : State) : PortValues :=
  { respValid := BitVec.ofBool s.resp.valid
    respHit := BitVec.ofBool s.resp.hit
    respEvict := BitVec.ofBool s.resp.evict
    respKind := s.resp.kind.toBit
    respOffset := s.resp.offset
    respIndex := s.resp.index
    respTag := s.resp.tag
    phase := s.phase.code
    errCode := s.errCode
    errCmd := s.errCmd
    fault := BitVec.ofBool (s.phase == .faulted)
    statAccesses := s.stats.accesses
    statHits := s.stats.hits
    statEvicts := s.stats.evicts }

/-- The outputs while the block performs a command or is being reset: `cmd_ready` is 0 and no other port
has a defined value (R45, R116, R123, U4). That U4 holds while `rst = 1` too is DEDUCED
(notes/assumptions/20.md). -/
def Outputs.notReady : Outputs := { cmdReady := 0, read := none }

/-- The outputs in a state, which stands between two commands: the block is ready, and every port shows
the state after the last accepted command (R45, R123), unless `rst = 1` (R116; notes/assumptions/20.md:
safe, since no value of a port in reset can be proved). -/
def State.outputs (s : State) : Outputs :=
  if s.rstAsserted then Outputs.notReady else { cmdReady := 1, read := some s.portValues }

/-- The bound that R123 and U4 set on a read while `cmd_ready = 0`: each port shows its value before the
command or its value after it, one port independently of another. -/
structure PortValues.OldOrNew (old new seen : PortValues) : Prop where
  respValid    : seen.respValid = old.respValid ∨ seen.respValid = new.respValid
  respHit      : seen.respHit = old.respHit ∨ seen.respHit = new.respHit
  respEvict    : seen.respEvict = old.respEvict ∨ seen.respEvict = new.respEvict
  respKind     : seen.respKind = old.respKind ∨ seen.respKind = new.respKind
  respOffset   : seen.respOffset = old.respOffset ∨ seen.respOffset = new.respOffset
  respIndex    : seen.respIndex = old.respIndex ∨ seen.respIndex = new.respIndex
  respTag      : seen.respTag = old.respTag ∨ seen.respTag = new.respTag
  phase        : seen.phase = old.phase ∨ seen.phase = new.phase
  errCode      : seen.errCode = old.errCode ∨ seen.errCode = new.errCode
  errCmd       : seen.errCmd = old.errCmd ∨ seen.errCmd = new.errCmd
  fault        : seen.fault = old.fault ∨ seen.fault = new.fault
  statAccesses : seen.statAccesses = old.statAccesses ∨ seen.statAccesses = new.statAccesses
  statHits     : seen.statHits = old.statHits ∨ seen.statHits = new.statHits
  statEvicts   : seen.statEvicts = old.statEvicts ∨ seen.statEvicts = new.statEvicts

/-- The number of misses, which the block does not store (R96). -/
def State.misses (s : State) : Nat := s.stats.accesses.toNat - s.stats.hits.toNat

/-- The hit rate as the exact rational, refused when there was no access (R95, U1;
notes/assumptions/13.md). -/
def State.hitRate (s : State) : Option Rat :=
  if s.stats.accesses = 0 then none
  else some (mkRat (s.stats.hits.toNat : Int) s.stats.accesses.toNat)

/-- How a run stands (R127). -/
inductive RunStatus where
  /-- `phase = ENDED`, with the triple of the counters as its result. -/
  | successful (accesses hits evicts : Counter)
  /-- `phase = FAULTED`: never successful. -/
  | faulted
  /-- Any other phase. -/
  | notOver
deriving DecidableEq, Repr

/-- The status of the run that led to a state (R127). -/
def State.runStatus (s : State) : RunStatus :=
  match s.phase with
  | .ended => .successful s.stats.accesses s.stats.hits s.stats.evicts
  | .faulted => .faulted
  | .unconfigured => .notOver
  | .running => .notOver

end Sys2Proof.Machine
end

