-- ==== Sys2Proof/Safety.lean ====
section
/-! DEFINITION. What claims about CSIM-CORE are stated with: the invariants the rules keep (spec
10_state.md R17 to R19, R27 to R29; 42_associative_bank.md R82), the ring read as a queue (R76, R77, R83),
and runs. -/

namespace Sys2Proof.Machine

/-! ### Reading slots -/

/-- The slot `j` of a bank; outside the storage, an invalid one. -/
def Bank.slot (bk : Bank) (j : Nat) : CacheBlock := bk.slots[j]?.getD CacheBlock.empty

/-- How many slots of a bank are valid. -/
def Bank.validCount (bk : Bank) : Nat := bk.slots.toList.countP fun blk => blk.valid

/-- The resident slots of a ring of length `L`, oldest first: `slot(b, k)` for `k` in `0..occ(b)-1`
(R77). -/
def Bank.residentSlots (bk : Bank) (L : Nat) : List Nat :=
  (List.range (bk.occupancy L)).map (bk.slotIndex L)

/-- The resident tags of an associative bank, oldest first. -/
def Bank.residentTags (bk : Bank) (L : Nat) : List Tag :=
  (bk.residentSlots L).map fun j => (bk.slot j).tag

/-! ### Invariants of a bank -/

/-- R27, with R22's last sentence: a direct-mapped bank of length `L` whose tags have `tagBits` bits.
A valid slot lies below `L`. -/
abbrev Bank.DirectMappedOk (bk : Bank) (L tagBits : Nat) : Prop :=
  bk.start = 0 ∧ bk.end_ = 0 ∧ bk.isFull = false ∧
  (∀ j, j < slotsPerBank → (bk.slot j).valid = true → j < L ∧ (bk.slot j).tag.toNat < 2 ^ tagBits) ∧
  (∀ j, j < slotsPerBank → (bk.slot j).valid = false → (bk.slot j).tag = 0)

/-- R28: an associative bank of length `L`. The cursors are in range, a full ring has `end = start`
(i), the valid slots are the resident ones (ii), resident tags are distinct (iii), `start` has not moved
before the ring is full (iv), and an invalid slot holds tag 0 (R20). -/
abbrev Bank.AssociativeOk (bk : Bank) (L : Nat) : Prop :=
  bk.start.toNat < L ∧ bk.end_.toNat < L ∧
  (bk.isFull = true → bk.end_ = bk.start) ∧
  (bk.isFull = false → bk.start = 0) ∧
  (∀ j, j < slotsPerBank →
    ((bk.slot j).valid = true ↔ j ∈ bk.residentSlots L)) ∧
  (bk.residentTags L).Nodup ∧
  (∀ j, j < slotsPerBank → (bk.slot j).valid = false → (bk.slot j).tag = 0)

/-- The invariant of a bank under the configured mapping. -/
def Bank.ok (bk : Bank) (mapping : Mapping) (L tagBits : Nat) : Bool :=
  match mapping with
  | .directMapped => decide (bk.DirectMappedOk L tagBits)
  | .fullyAssociative => decide (bk.AssociativeOk L)

/-! ### Invariants of the state -/

/-- R18, R19 and R70: the configuration is legal and the derived registers are the ones it gives. -/
abbrev State.RegistersDerived (s : State) : Prop :=
  s.cfg.size ∈ legalSizes ∧
  s.nBanks.toNat = bankCountOf s.cfg.org ∧
  s.bankLength.toNat = bankLengthOf s.cfg.size s.cfg.org ∧
  s.fields.offsetBits.toNat = 6 ∧
  s.fields.indexBits.toNat = (if s.cfg.mapping = .directMapped
    then Nat.log2 (bankLengthOf s.cfg.size s.cfg.org) else 0) ∧
  s.fields.offsetBits.toNat + s.fields.indexBits.toNat + s.fields.tagBits.toNat = 32 ∧
  bankCountOf s.cfg.org * bankLengthOf s.cfg.size s.cfg.org ≤ s.params.maxBlocks

/-- A bank in use satisfies its invariant; bank 1 under Unified is as reset left it (R21). -/
abbrev State.BanksOk (s : State) : Prop :=
  s.bank0.ok s.cfg.mapping s.bankLength.toNat s.fields.tagBits.toNat = true ∧
  (s.cfg.org = .unified → s.bank1 = Bank.empty) ∧
  (s.cfg.org = .split → s.bank1.ok s.cfg.mapping s.bankLength.toNat s.fields.tagBits.toNat = true)

/-- A configuration is held. -/
abbrev State.Configured (s : State) : Prop := s.RegistersDerived ∧ s.BanksOk

/-- No configuration is held: everything CONFIGURE and ACCESS write is as reset left it. -/
abbrev State.Unconfigured (s : State) : Prop :=
  s.cfg = CacheConfiguration.reset ∧ s.nBanks = 0 ∧ s.bankLength = 0 ∧
  s.fields = AddressFields.reset ∧ s.bank0 = Bank.empty ∧ s.bank1 = Bank.empty ∧
  s.stats = Statistics.zero ∧ s.resp = Response.reset

/-- What each phase says of the configuration (R16). -/
def State.phaseOk (s : State) : Bool :=
  match s.phase with
  | .unconfigured => decide s.Unconfigured
  | .running => decide s.Configured
  | .ended => decide s.Configured
  | .faulted => decide (s.Unconfigured ∨ s.Configured)

/-- R17: `err_code != 0` exactly when `phase = FAULTED`, and only codes the block raises (R102; U12,
U13); `err_cmd` is 0 until the first error. -/
abbrev State.ErrorRegistersOk (s : State) : Prop :=
  (s.errCode ≠ 0 ↔ s.phase = .faulted) ∧ s.errCode.toNat ≤ 8 ∧ s.errCode ≠ 3 ∧
  (s.phase ≠ .faulted → s.errCmd = 0)

/-- R29: `hits <= accesses` and `evicts <= accesses - hits`. -/
abbrev State.CountersOk (s : State) : Prop :=
  s.stats.hits.toNat ≤ s.stats.accesses.toNat ∧ s.stats.evicts.toNat ≤ s.misses

/-- R24: `resp_valid` says whether an ACCESS has completed; until then the others are 0. A Hit never
evicts (R29). -/
abbrev State.ResponseOk (s : State) : Prop :=
  (s.resp.valid = true ↔ s.stats.accesses ≠ 0) ∧
  (s.resp.valid = false → s.resp = Response.reset) ∧
  (s.resp.hit = true → s.resp.evict = false)

/-- The block's invariant. -/
abbrev State.Inv (s : State) : Prop :=
  s.phaseOk = true ∧ s.ErrorRegistersOk ∧ s.CountersOk ∧ s.ResponseOk

/-- Every miss was either an eviction or made a slot valid (R74 (ii), R82 (iv), R83 (iii)). -/
abbrev State.MissesAccounted (s : State) : Prop :=
  s.misses = s.stats.evicts.toNat + s.bank0.validCount + s.bank1.validCount

/-! ### A FIFO cache -/

/-- What a FIFO cache of capacity `L` does with an access to `tag`, its entries oldest first (R83): a
resident tag hits and moves nothing; else it enters as the newest, and a full cache drops its oldest. -/
def fifoAccess (L : Nat) (q : List Tag) (tag : Tag) : LookupResult × List Tag :=
  if tag ∈ q then ({ result := .hit, evicted := false }, q)
  else if q.length = L then ({ result := .miss, evicted := true }, q.tail ++ [tag])
  else ({ result := .miss, evicted := false }, q ++ [tag])

/-- The tags that miss when a FIFO cache of capacity `L` that holds `q` is accessed with `tags`, in
order. -/
def missedTags (L : Nat) : (tags q : List Tag) → List Tag
  | [], _ => []
  | tag :: tags, q =>
    if tag ∈ q then missedTags L tags q
    else tag :: missedTags L tags (fifoAccess L q tag).2

/-- The last `n` entries of a list, in their order; the whole list if it is shorter. -/
def lastEntries {α : Type} (n : Nat) (l : List α) : List α := l.drop (l.length - n)

/-- R82 (iii), (iv) and R83 (iii) for the one ring of a Unified configuration, whose misses are all the
misses: it is full from the `L`-th miss on, until then `end` is the number of misses, it holds
`min(misses, L)` entries, and the evictions are `max(0, misses - L)`. -/
abbrev State.RingFillLaw (s : State) : Prop :=
  s.cfg.mapping = .fullyAssociative → s.cfg.org = .unified →
    (s.bank0.isFull = true ↔ s.bankLength.toNat ≤ s.misses) ∧
    (s.bank0.isFull = false → s.bank0.end_.toNat = s.misses) ∧
    s.bank0.occupancy s.bankLength.toNat = min s.misses s.bankLength.toNat ∧
    s.stats.evicts.toNat = s.misses - s.bankLength.toNat

/-! ### The outcome of an access, by plain arithmetic -/

/-- The index of an address under the configured layout: `address[5+ib:6]` (R56). -/
def State.indexOf (s : State) (a : Addr) : Nat := a.toNat / 64 % 2 ^ s.fields.indexBits.toNat

/-- The tag of an address under the configured layout: `address[31:6+ib]` (R56). -/
def State.tagOf (s : State) (a : Addr) : Nat := a.toNat / 2 ^ (6 + s.fields.indexBits.toNat)

/-- The bank that serves a kind: bank 1 for Data under Split, else bank 0 (R21). -/
def State.bankFor (s : State) (k : AccessKind) : BankId :=
  if s.cfg.org = .split ∧ k = .data then .bank1 else .bank0

/-- The state after a completed access of kind `k` to `a`: bank `b` is now `bk`, each counter has moved
as the outcome `r` says (R93), the response registers hold the outcome and the decoded fields (R94), and
nothing else has changed. -/
def State.afterAccess (s : State) (k : AccessKind) (a : Addr) (b : BankId) (bk : Bank)
    (r : LookupResult) : State :=
  { s with
    bank0 := if b = .bank0 then bk else s.bank0
    bank1 := if b = .bank1 then bk else s.bank1
    stats :=
      { accesses := s.stats.accesses + 1
        hits := if r.result = .hit then s.stats.hits + 1 else s.stats.hits
        evicts := if r.evicted = true then s.stats.evicts + 1 else s.stats.evicts }
    resp :=
      { valid := true
        hit := decide (r.result = .hit)
        evict := r.evicted
        kind := k
        offset := BitVec.ofNat 6 (a.toNat % 64)
        index := BitVec.ofNat 6 (s.indexOf a)
        tag := BitVec.ofNat 26 (s.tagOf a) } }

/-- `bk` with slot `j` holding `tag`, valid. -/
def Bank.holding (bk : Bank) (j : Nat) (tag : Tag) : Bank :=
  { bk with slots := bk.slots.setIfInBounds j { tag := tag, valid := true } }

/-- The state in which a direct-mapped configuration of one-slot banks is read as an associative one: a
ring of one slot is full when the slot is valid (R75, R81). -/
def State.asRing (s : State) : State :=
  { s with
    cfg := { s.cfg with mapping := .fullyAssociative }
    bank0 := { s.bank0 with isFull := (s.bank0.slot 0).valid }
    bank1 := { s.bank1 with isFull := (s.bank1.slot 0).valid } }

/-- The command of an access. -/
def accessOf (k : AccessKind) (a : Addr) : Instr := AccessRecord.command { kind := k, address := a }

/-- The twelve reserved opcodes' commands with a given payload (R51). -/
def reservedInstrs (p : Payload) : List Instr :=
  [.reserved0 p, .reserved5 p, .reserved6 p, .reserved7 p, .reserved8 p, .reserved9 p, .reservedA p,
    .reservedB p, .reservedC p, .reservedD p, .reservedE p, .reservedF p]

/-- An access can be performed: the block is RUNNING and the access counter is not at its end (R88). -/
abbrev State.CanAccess (s : State) : Prop :=
  s.phase = .running ∧ s.stats.accesses.toNat ≠ 2 ^ 64 - 1

/-! ### Runs -/

/-- The port sample the next step looks at does not assert `rst`. -/
abbrev State.NoReset (s : State) : Prop := s.rstAsserted = false

end Sys2Proof.Machine
end

