-- ==== Sys2Proof/Certificates/Slice0/Obligations.lean ====
section
/-! DEFINITION. The statements about CSIM-CORE that are put to the provers. Each docstring names the rules
of spec/ it formalises. -/

open Sys2Proof Sys2Proof.Machine

/-! ### Encoding -/

/-- R47 to R51, R60: the words of 95_test_vectors.md L2.1, written out from the formats, decode to the
commands they stand for. -/
def Obligations.SampleWordsDecode : Prop :=
  decodeCmd 0x100000080#36 = .configure 128 .directMapped .unified 0 ∧
  decodeCmd 0x100010080#36 = .configure 128 .fullyAssociative .unified 0 ∧
  decodeCmd 0x100020080#36 = .configure 128 .directMapped .split 0 ∧
  decodeCmd 0x100031000#36 = .configure 4096 .fullyAssociative .split 0 ∧
  decodeCmd 0x1FFFC0080#36 = .configure 128 .directMapped .unified 0x3FFF ∧
  decodeCmd 0x200000000#36 = .accessI 0 ∧
  decodeCmd 0x3FFFFFFFF#36 = .accessD 0xFFFFFFFF ∧
  decodeCmd 0x480000000#36 = .endTrace 0x80000000 ∧
  decodeCmd 0x000000000#36 = .reserved0 0 ∧
  decodeCmd 0x512345678#36 = .reserved5 0x12345678 ∧
  decodeCmd 0xFFFFFFFFF#36 = .reservedF 0xFFFFFFFF

/-- R60: decoding keeps every field of every command, the legal and the illegal ones. -/
def Obligations.DecodeOfEncode : Prop :=
  ∀ i : Instr, decodeCmd (encode i) = i

/-- R47, R60: every 36-bit word is the word of the one command it decodes to. -/
def Obligations.EncodeOfDecode : Prop :=
  ∀ w : CmdWord, encode (decodeCmd w) = w

/-- R46 to R51: where every field stands in the word, as a number. -/
def Obligations.FieldsStandWhereTheFormatsSay : Prop :=
  (∀ (size : BitVec 16) (map : Mapping) (org : Organization) (rsv : BitVec 14),
    (encode (.configure size map org rsv)).toNat =
      2 ^ 32 + rsv.toNat * 2 ^ 18 + (if org = .split then 2 ^ 17 else 0) +
        (if map = .fullyAssociative then 2 ^ 16 else 0) + size.toNat) ∧
  (∀ a : Addr, (encode (.accessI a)).toNat = 2 * 2 ^ 32 + a.toNat ∧
    (encode (.accessD a)).toNat = 3 * 2 ^ 32 + a.toNat) ∧
  (∀ z : BitVec 32, (encode (.endTrace z)).toNat = 4 * 2 ^ 32 + z.toNat) ∧
  (∀ p : Payload, (reservedInstrs p).map (fun i => (encode i).toNat) =
    [0x0, 0x5, 0x6, 0x7, 0x8, 0x9, 0xA, 0xB, 0xC, 0xD, 0xE, 0xF].map
      fun op => op * 2 ^ 32 + p.toNat)

/-- R46: a number is decoded exactly when it is a 36-bit word, and then to the command whose word it is. -/
def Obligations.TableWordDecodesExactlyIfItFits : Prop :=
  ∀ nbits w : Nat,
    (w < 2 ^ 36 → w < 2 ^ nbits → ∃ i, decodeTableWord nbits w = some i ∧ (encode i).toNat = w) ∧
    (2 ^ 36 ≤ w ∨ 2 ^ nbits ≤ w → decodeTableWord nbits w = none)

/-! ### The step and the input ports -/

/-- R45, R35: a step whose port sample offers a command is that command's meaning, on the state with the
sample taken; the word offered may be any, and the word of a command is decoded to that command. -/
def Obligations.StepRunsTheOfferedCommand : Prop :=
  (∀ (s : State) (w : CmdWord) (rest : List PortSample), s.inputs = offerCommand w :: rest →
    step s = exec (decodeCmd w) { s with inputs := rest }) ∧
  (∀ (s : State) (i : Instr) (rest : List PortSample), s.inputs = offerCommand (encode i) :: rest →
    step s = exec i { s with inputs := rest })

/-- The step that takes a word placed by `withFetchWord` runs the command the word decodes to, on the
state the word was placed in. -/
def Obligations.FetchWordIsRunNext : Prop :=
  ∀ (s : State) (nbits w : Nat) (i : Instr), decodeTableWord nbits w = some i →
    step (s.withFetchWord nbits w) = exec i s

/-- R115: with no command offered the block holds all its state; only the sample is used up. -/
def Obligations.IdleHoldsAllState : Prop :=
  (∀ s : State, s.inputs = [] → step s = .next s) ∧
  (∀ (s : State) (p : PortSample) (rest : List PortSample), s.inputs = p :: rest →
    p.rst = false → p.cmdValid = false → step s = .next { s with inputs := rest })

/-- R116, R117, R124: a step that samples `rst = 1` leaves every piece of state at its reset value,
whatever the state and whatever was offered, and `cmd_ready` is 0. The build's parameters and the host's
later samples stay (the model's own fields), and no other port has a defined value while `rst = 1`
(U4; notes/assumptions/20.md). -/
def Obligations.ResetFromAnyState : Prop :=
  ∀ (s : State) (p : PortSample) (rest : List PortSample), s.inputs = p :: rest → p.rst = true →
    s.outputs.cmdReady = 0 ∧ s.outputs.read = none ∧
    ∃ t, step s = .next t ∧
      t.phase = .unconfigured ∧ t.errCode = 0 ∧ t.errCmd = 0 ∧
      t.cfg.size = 0 ∧ t.cfg.mapping = .directMapped ∧ t.cfg.org = .unified ∧
      t.nBanks = 0 ∧ t.bankLength = 0 ∧
      t.fields.offsetBits = 0 ∧ t.fields.indexBits = 0 ∧ t.fields.tagBits = 0 ∧
      (∀ b : BankId, (t.bank b).start = 0 ∧ (t.bank b).end_ = 0 ∧ (t.bank b).isFull = false ∧
        ∀ j, j < 64 → (t.bank b).slots[j]? = some { tag := 0, valid := false }) ∧
      t.stats.accesses = 0 ∧ t.stats.hits = 0 ∧ t.stats.evicts = 0 ∧
      t.resp.valid = false ∧ t.resp.hit = false ∧ t.resp.evict = false ∧
      t.resp.kind = .instruction ∧ t.resp.offset = 0 ∧ t.resp.index = 0 ∧ t.resp.tag = 0 ∧
      t.params = s.params ∧ t.inputs = rest

/-- R6, R15, R116: `State.reset` is what reset leaves, every configuration, derived and response register
among it, with the default MAX_BLOCKS and no input to come (the last is the model's choice,
notes/assumptions/1.md). -/
def Obligations.ResetValues : Prop :=
  State.reset.phase = .unconfigured ∧ State.reset.errCode = 0 ∧ State.reset.errCmd = 0 ∧
  State.reset.cfg.size = 0 ∧ State.reset.cfg.mapping = .directMapped ∧
  State.reset.cfg.org = .unified ∧ State.reset.nBanks = 0 ∧ State.reset.bankLength = 0 ∧
  State.reset.fields.offsetBits = 0 ∧ State.reset.fields.indexBits = 0 ∧
  State.reset.fields.tagBits = 0 ∧
  (∀ b : BankId, (State.reset.bank b).start = 0 ∧ (State.reset.bank b).end_ = 0 ∧
    (State.reset.bank b).isFull = false ∧
    ∀ j, j < 64 → (State.reset.bank b).slots[j]? = some { tag := 0, valid := false }) ∧
  State.reset.stats.accesses = 0 ∧ State.reset.stats.hits = 0 ∧ State.reset.stats.evicts = 0 ∧
  State.reset.resp.valid = false ∧ State.reset.resp.hit = false ∧ State.reset.resp.evict = false ∧
  State.reset.resp.kind = .instruction ∧ State.reset.resp.offset = 0 ∧ State.reset.resp.index = 0 ∧
  State.reset.resp.tag = 0 ∧ State.reset.params.maxBlocks = 64 ∧ State.reset.inputs = []

/-- R38: a command does not depend on what the host offers later, and neither that nor the build's
parameters are changed by it. -/
def Obligations.CommandsDoNotSeeLaterInputs : Prop :=
  ∀ (i : Instr) (s t : State) (ins : List PortSample), exec i s = .next t →
    t.params = s.params ∧ t.inputs = s.inputs ∧
    exec i { s with inputs := ins } = .next { t with inputs := ins }

/-! ### Errors -/

/-- R103, R127: the fault entry. A command that faults the block makes the three writes and no other,
with the code of an error the block raises and the command's own word; such a run is not successful. -/
def Obligations.FaultsArePrecise : Prop :=
  ∀ (i : Instr) (s t : State), s.phase ≠ .faulted → exec i s = .next t → t.phase = .faulted →
    t.runStatus = .faulted ∧
    ∃ e : BlockError, e ≠ .malformedRecord ∧
      t = { s with errCode := e.code, errCmd := encode i, phase := .faulted }

/-- R102: a step that faults the block records the word that was offered, for every word. -/
def Obligations.FaultRecordsTheOfferedWord : Prop :=
  ∀ (s t : State) (w : CmdWord) (rest : List PortSample), s.inputs = offerCommand w :: rest →
    s.phase ≠ .faulted → step s = .next t → t.phase = .faulted → t.errCmd = w ∧ t.errCode ≠ 0

/-- R102: the codes. -/
def Obligations.ErrorCodes : Prop :=
  [BlockError.configError, .allocationError, .malformedRecord, .illegalCommand, .notConfigured,
    .alreadyConfigured, .traceEnded, .counterOverflow].map BlockError.code
    = [1, 2, 3, 4, 5, 6, 7, 8]

/-- R104: in FAULTED every command is accepted and changes nothing, and only reset leaves FAULTED. -/
def Obligations.FaultedIgnoresEveryCommand : Prop :=
  (∀ (i : Instr) (s : State), s.phase = .faulted → exec i s = .next s) ∧
  (∀ s : State, s.phase = .faulted → s.rstAsserted = false →
    step s = .next { s with inputs := s.inputs.tail })

/-- R97, R98, R105: the errors of CONFIGURE, the phase before the operands and the operands before the
capacity. -/
def Obligations.ConfigureErrorsInOrder : Prop :=
  ∀ (size : BitVec 16) (map : Mapping) (org : Organization) (rsv : BitVec 14) (s : State),
    (s.phase = .running ∨ s.phase = .ended →
      exec (.configure size map org rsv) s = .next
        { s with errCode := 6, errCmd := encode (.configure size map org rsv), phase := .faulted }) ∧
    (s.phase = .unconfigured → rsv ≠ 0 ∨ size ∉ legalSizes →
      exec (.configure size map org rsv) s = .next
        { s with errCode := 1, errCmd := encode (.configure size map org rsv), phase := .faulted }) ∧
    (s.phase = .unconfigured → rsv = 0 → size ∈ legalSizes → s.params.maxBlocks < size.toNat / 64 →
      exec (.configure size map org rsv) s = .next
        { s with errCode := 2, errCmd := encode (.configure size map org rsv), phase := .faulted })

/-- R97: at the default MAX_BLOCKS, and at any larger one, no command raises ALLOCATION_ERROR. -/
def Obligations.DefaultCapacityAlwaysSuffices : Prop :=
  ∀ (i : Instr) (s t : State), 64 ≤ s.params.maxBlocks → s.errCode ≠ 2 → exec i s = .next t →
    t.errCode ≠ 2

/-- R88, R89, R105: the errors of ACCESS_I and ACCESS_D, whatever the address. -/
def Obligations.AccessErrorsInOrder : Prop :=
  ∀ (k : AccessKind) (a : Addr) (s : State),
    (s.phase = .unconfigured → exec (accessOf k a) s = .next
      { s with errCode := 5, errCmd := encode (accessOf k a), phase := .faulted }) ∧
    (s.phase = .ended → exec (accessOf k a) s = .next
      { s with errCode := 7, errCmd := encode (accessOf k a), phase := .faulted }) ∧
    (s.phase = .running → s.stats.accesses.toNat = 2 ^ 64 - 1 → exec (accessOf k a) s = .next
      { s with errCode := 8, errCmd := encode (accessOf k a), phase := .faulted })

/-- R99: END_TRACE, in every phase. Its completion is the case RUNNING with `z = 0`. -/
def Obligations.EndTraceMeaning : Prop :=
  ∀ (z : BitVec 32) (s : State),
    (s.phase = .running → z = 0 → exec (.endTrace z) s = .next { s with phase := .ended }) ∧
    (s.phase = .running → z ≠ 0 → exec (.endTrace z) s = .next
      { s with errCode := 4, errCmd := encode (.endTrace z), phase := .faulted }) ∧
    (s.phase = .unconfigured → exec (.endTrace z) s = .next
      { s with errCode := 5, errCmd := encode (.endTrace z), phase := .faulted }) ∧
    (s.phase = .ended → exec (.endTrace z) s = .next
      { s with errCode := 7, errCmd := encode (.endTrace z), phase := .faulted }) ∧
    (s.phase = .faulted → exec (.endTrace z) s = .next s)

/-- R100: the twelve reserved opcodes `.reserved0`, `.reserved5`, `.reserved6`, `.reserved7`,
`.reserved8`, `.reserved9`, `.reservedA`, `.reservedB`, `.reservedC`, `.reservedD`, `.reservedE` and
`.reservedF`, with any payload. -/
def Obligations.ReservedOpcodesRaiseIllegalCommand : Prop :=
  ∀ (p : Payload) (i : Instr) (s : State), i ∈ reservedInstrs p →
    (s.phase ≠ .faulted → exec i s = .next
      { s with errCode := 4, errCmd := encode i, phase := .faulted }) ∧
    (s.phase = .faulted → exec i s = .next s)

/-! ### CONFIGURE and the address decoder -/

/-- R98: `config_valid`, and the six sizes it accepts. -/
def Obligations.ConfigValidAcceptsSixSizes : Prop :=
  ∀ (size : BitVec 16) (rsv : BitVec 14),
    (configValid size rsv = true ↔ rsv = 0 ∧
      (size = 128 ∨ size = 256 ∨ size = 512 ∨ size = 1024 ∨ size = 2048 ∨ size = 4096)) ∧
    (configValid size rsv = true ↔
      rsv = 0 ∧ 128 ≤ size.toNat ∧ size.toNat ≤ 4096 ∧ size &&& (size - 1) = 0) ∧
    (configValid size rsv = true ↔
      rsv = 0 ∧ 128 ≤ size.toNat ∧ size.toNat ≤ 4096 ∧ ∃ n, size.toNat = 2 ^ n) ∧
    (configValid size rsv = true → 64 ∣ size.toNat)

/-- R97: a CONFIGURE that passes its checks completes, writes the configuration, the derived fields,
the slots, cursors and flags of its banks, the counters and the phase, and nothing else. -/
def Obligations.ConfigureStartsTheRun : Prop :=
  ∀ (size : BitVec 16) (map : Mapping) (org : Organization) (s : State),
    s.phase = .unconfigured → size ∈ legalSizes → size.toNat / 64 ≤ s.params.maxBlocks →
    ∃ t, exec (.configure size map org 0) s = .next t ∧
      t.phase = .running ∧ t.cfg = { size := size, mapping := map, org := org } ∧
      t.nBanks.toNat = (if org = .split then 2 else 1) ∧
      t.bankLength.toNat = (if org = .split then size.toNat / 128 else size.toNat / 64) ∧
      t.fields.offsetBits.toNat = 6 ∧
      t.fields.indexBits.toNat = (if map = .directMapped then Nat.log2 t.bankLength.toNat else 0) ∧
      t.fields.tagBits.toNat = 26 - t.fields.indexBits.toNat ∧
      (∀ b : BankId, b.number < t.nBanks.toNat →
        (∀ j, j < t.bankLength.toNat → (t.bank b).slot j = { tag := 0, valid := false }) ∧
        (∀ j, t.bankLength.toNat ≤ j → (t.bank b).slot j = (s.bank b).slot j) ∧
        (t.bank b).start = 0 ∧ (t.bank b).end_ = 0 ∧ (t.bank b).isFull = false) ∧
      (∀ b : BankId, t.nBanks.toNat ≤ b.number → t.bank b = s.bank b) ∧
      t.stats = { accesses := 0, hits := 0, evicts := 0 } ∧
      t.errCode = s.errCode ∧ t.errCmd = s.errCmd ∧ t.resp = s.resp ∧
      t.params = s.params ∧ t.inputs = s.inputs

/-- R62: `count_significant_bits(n)` is the number of right shifts that bring `n` down to 1, which is
the floor of the binary logarithm. -/
def Obligations.CountSignificantBitsIsFloorLog : Prop :=
  ∀ n : Nat, 1 ≤ n →
    n >>> countSignificantBits n = 1 ∧ (∀ c, c < countSignificantBits n → 1 < n >>> c) ∧
    countSignificantBits n = Nat.log2 n

/-- R65: for every accepted configuration the three widths sum to 32: after the CONFIGURE that accepts
it, and in every state that holds a configuration. -/
def Obligations.FieldWidthsSumTo32 : Prop :=
  (∀ (size : BitVec 16) (map : Mapping) (org : Organization) (rsv : BitVec 14) (s t : State),
    s.phase = .unconfigured → exec (.configure size map org rsv) s = .next t → t.phase = .running →
    t.fields.offsetBits.toNat + t.fields.indexBits.toNat + t.fields.tagBits.toNat = 32) ∧
  (∀ s : State, s.Inv → s.phase = .running ∨ s.phase = .ended →
    s.fields.offsetBits.toNat + s.fields.indexBits.toNat + s.fields.tagBits.toNat = 32)

/-- R70: the table of every configuration: (bank_length, index_bits and tag_bits with a direct mapping,
index_bits and tag_bits with an associative one). -/
def Obligations.ConfigurationTable : Prop :=
  legalSizes.map (fun size => [Organization.unified, .split].map fun org =>
      (bankLengthOf size org, computeFields (bankLengthOf size org) .directMapped,
        computeFields (bankLengthOf size org) .fullyAssociative)) =
    [[(2, .ok ⟨6, 1, 25⟩, .ok ⟨6, 0, 26⟩), (1, .ok ⟨6, 0, 26⟩, .ok ⟨6, 0, 26⟩)],
     [(4, .ok ⟨6, 2, 24⟩, .ok ⟨6, 0, 26⟩), (2, .ok ⟨6, 1, 25⟩, .ok ⟨6, 0, 26⟩)],
     [(8, .ok ⟨6, 3, 23⟩, .ok ⟨6, 0, 26⟩), (4, .ok ⟨6, 2, 24⟩, .ok ⟨6, 0, 26⟩)],
     [(16, .ok ⟨6, 4, 22⟩, .ok ⟨6, 0, 26⟩), (8, .ok ⟨6, 3, 23⟩, .ok ⟨6, 0, 26⟩)],
     [(32, .ok ⟨6, 5, 21⟩, .ok ⟨6, 0, 26⟩), (16, .ok ⟨6, 4, 22⟩, .ok ⟨6, 0, 26⟩)],
     [(64, .ok ⟨6, 6, 20⟩, .ok ⟨6, 0, 26⟩), (32, .ok ⟨6, 5, 21⟩, .ok ⟨6, 0, 26⟩)]]

/-- R56, R66, R67, R68: the decoded fields as numbers, and their ranges, for every address in every
state that holds a configuration. -/
def Obligations.DecodedFieldsAndRanges : Prop :=
  ∀ (a : Addr) (s : State), s.Inv → s.phase = .running →
    (decodeAddress a s.fields).offset.toNat = a.toNat % 64 ∧
    (decodeAddress a s.fields).index.toNat = a.toNat / 64 % 2 ^ s.fields.indexBits.toNat ∧
    (decodeAddress a s.fields).tag.toNat = a.toNat / 2 ^ (6 + s.fields.indexBits.toNat) ∧
    (decodeAddress a s.fields).index.toNat < 2 ^ s.fields.indexBits.toNat ∧
    (decodeAddress a s.fields).tag.toNat < 2 ^ s.fields.tagBits.toNat ∧
    s.fields.tagBits.toNat ≤ 26 ∧
    (s.cfg.mapping = .directMapped → 2 ^ s.fields.indexBits.toNat = s.bankLength.toNat) ∧
    (s.cfg.mapping = .fullyAssociative → (decodeAddress a s.fields).index = 0)

/-- R69: `decode` loses no address bit, and two addresses have the same index and tag exactly when they
lie in the same 64-byte block. -/
def Obligations.DecodeLosesNoAddressBit : Prop :=
  ∀ (a a' : Addr) (s : State), s.Inv → s.phase = .running →
    a = ((decodeAddress a s.fields).tag <<< (s.fields.offsetBits.toNat + s.fields.indexBits.toNat))
      ||| ((decodeAddress a s.fields).index <<< s.fields.offsetBits.toNat)
      ||| (decodeAddress a s.fields).offset ∧
    ((decodeAddress a s.fields).index = (decodeAddress a' s.fields).index ∧
      (decodeAddress a s.fields).tag = (decodeAddress a' s.fields).tag ↔
      a.toNat / 64 = a'.toNat / 64)

/-! ### The direct-mapped engine -/

/-- R71, R72, R88, R89, R93, R94: ACCESS_I (`.accessI`) and ACCESS_D (`.accessD`) with a direct mapping
complete; the three cases, each with its whole next state. -/
def Obligations.DirectMappedAccess : Prop :=
  ∀ (k : AccessKind) (a : Addr) (s : State), s.Inv → s.CanAccess → s.cfg.mapping = .directMapped →
    (((s.bank (s.bankFor k)).slot (s.indexOf a)).valid = false →
      exec (accessOf k a) s = .next (s.afterAccess k a (s.bankFor k)
        ((s.bank (s.bankFor k)).holding (s.indexOf a) (BitVec.ofNat 26 (s.tagOf a)))
        { result := .miss, evicted := false })) ∧
    (((s.bank (s.bankFor k)).slot (s.indexOf a)).valid = true →
      ((s.bank (s.bankFor k)).slot (s.indexOf a)).tag.toNat = s.tagOf a →
      exec (accessOf k a) s = .next (s.afterAccess k a (s.bankFor k) (s.bank (s.bankFor k))
        { result := .hit, evicted := false })) ∧
    (((s.bank (s.bankFor k)).slot (s.indexOf a)).valid = true →
      ((s.bank (s.bankFor k)).slot (s.indexOf a)).tag.toNat ≠ s.tagOf a →
      exec (accessOf k a) s = .next (s.afterAccess k a (s.bankFor k)
        ((s.bank (s.bankFor k)).holding (s.indexOf a) (BitVec.ofNat 26 (s.tagOf a)))
        { result := .miss, evicted := true }))

/-- R74 (i): two addresses with one index and different tags evict each other on every alternation: after
an access to the first, the second misses and evicts, and then the first misses and evicts. -/
def Obligations.DirectMappedConflictsAlternate : Prop :=
  ∀ (k : AccessKind) (a a' : Addr) (s : State), s.Inv → s.phase = .running →
    s.stats.accesses.toNat + 3 < 2 ^ 64 → s.cfg.mapping = .directMapped →
    s.indexOf a = s.indexOf a' → s.tagOf a ≠ s.tagOf a' →
    ∃ t u v, exec (accessOf k a) s = .next t ∧ exec (accessOf k a') t = .next u ∧
      exec (accessOf k a) u = .next v ∧
      u.resp.hit = false ∧ u.resp.evict = true ∧ v.resp.hit = false ∧ v.resp.evict = true ∧
      v.stats.evicts.toNat = t.stats.evicts.toNat + 2 ∧ v.stats.hits = t.stats.hits

/-- R74 (iii): after any accesses each slot of a direct-mapped bank holds the tag of the latest access
to its bank and index, valid, and a slot that no access went to is as it was. -/
def Obligations.DirectMappedSlotsHoldTheLatestTag : Prop :=
  ∀ (records : List AccessRecord) (s : State), s.Inv → s.phase = .running →
    s.cfg.mapping = .directMapped → s.stats.accesses.toNat + records.length < 2 ^ 64 →
    ∃ t, Sys2Proof.core.run records.length
        { s with inputs := offerAll (records.map AccessRecord.command) } = .next t ∧
      ∀ (b : BankId) (j : Nat), (t.bank b).slot j =
        match records.reverse.find? fun r => s.bankFor r.kind == b && s.indexOf r.address == j with
        | some r => { tag := BitVec.ofNat 26 (s.tagOf r.address), valid := true }
        | none => (s.bank b).slot j

/-! ### The associative engine -/

/-- R78, R79, R80, R88, R89, R93, R94: ACCESS_I (`.accessI`) and ACCESS_D (`.accessD`) with an
associative mapping complete: a resident tag hits and no slot, cursor or flag changes; else the tag is
written at `end`, and a full ring first discards its oldest entry. Each case has its whole next state. -/
def Obligations.AssociativeAccess : Prop :=
  ∀ (k : AccessKind) (a : Addr) (s : State), s.Inv → s.CanAccess →
    s.cfg.mapping = .fullyAssociative →
    (BitVec.ofNat 26 (a.toNat / 64) ∈ (s.bank (s.bankFor k)).residentTags s.bankLength.toNat →
      exec (accessOf k a) s = .next (s.afterAccess k a (s.bankFor k) (s.bank (s.bankFor k))
        { result := .hit, evicted := false })) ∧
    (BitVec.ofNat 26 (a.toNat / 64) ∉ (s.bank (s.bankFor k)).residentTags s.bankLength.toNat →
      (s.bank (s.bankFor k)).isFull = false →
      exec (accessOf k a) s = .next (s.afterAccess k a (s.bankFor k)
        { (s.bank (s.bankFor k)).holding (s.bank (s.bankFor k)).end_.toNat
            (BitVec.ofNat 26 (a.toNat / 64)) with
          end_ := BitVec.ofNat 6 (((s.bank (s.bankFor k)).end_.toNat + 1) % s.bankLength.toNat)
          isFull := decide (((s.bank (s.bankFor k)).end_.toNat + 1) % s.bankLength.toNat
            = (s.bank (s.bankFor k)).start.toNat) }
        { result := .miss, evicted := false })) ∧
    (BitVec.ofNat 26 (a.toNat / 64) ∉ (s.bank (s.bankFor k)).residentTags s.bankLength.toNat →
      (s.bank (s.bankFor k)).isFull = true →
      exec (accessOf k a) s = .next (s.afterAccess k a (s.bankFor k)
        { (s.bank (s.bankFor k)).holding (s.bank (s.bankFor k)).end_.toNat
            (BitVec.ofNat 26 (a.toNat / 64)) with
          start := BitVec.ofNat 6 (((s.bank (s.bankFor k)).start.toNat + 1) % s.bankLength.toNat)
          end_ := BitVec.ofNat 6 (((s.bank (s.bankFor k)).end_.toNat + 1) % s.bankLength.toNat)
          isFull := true }
        { result := .miss, evicted := true }))

/-- R76, R80, R83: read as the list of its resident tags, oldest first, an associative bank is a FIFO
cache: every access does to that list, and reports, what `fifoAccess` says. -/
def Obligations.RingRefinesFifo : Prop :=
  ∀ (k : AccessKind) (a : Addr) (s : State), s.Inv → s.CanAccess →
    s.cfg.mapping = .fullyAssociative →
    ∃ t, exec (accessOf k a) s = .next t ∧
      fifoAccess s.bankLength.toNat ((s.bank (s.bankFor k)).residentTags s.bankLength.toNat)
          (BitVec.ofNat 26 (a.toNat / 64)) =
        ({ result := if t.resp.hit then .hit else .miss, evicted := t.resp.evict },
          (t.bank (s.bankFor k)).residentTags s.bankLength.toNat)

/-- R83 (iv): from an empty ring, after any accesses, the resident tags, oldest first, are the last
missed tags, at most `bank_length` of them, in the order they were installed. -/
def Obligations.RingHoldsTheLastMissedTags : Prop :=
  ∀ (records : List AccessRecord) (s : State), s.Inv → s.phase = .running →
    s.cfg.mapping = .fullyAssociative → s.cfg.org = .unified → s.bank0 = Bank.empty →
    s.stats.accesses.toNat + records.length < 2 ^ 64 →
    ∃ t, Sys2Proof.core.run records.length
        { s with inputs := offerAll (records.map AccessRecord.command) } = .next t ∧
      t.bank0.residentTags s.bankLength.toNat =
        lastEntries s.bankLength.toNat (missedTags s.bankLength.toNat
          (records.map fun r => BitVec.ofNat 26 (r.address.toNat / 64)) [])

/-- R82 (iii), (iv), R83 (iii): every step keeps the fill law of the one ring of a Unified
configuration. -/
def Obligations.EveryStepKeepsTheRingFillLaw : Prop :=
  ∀ s t : State, s.Inv → s.MissesAccounted → s.RingFillLaw → step s = .next t → t.RingFillLaw

/-- R84: accesses to resident tags, any number in a row, change no cursor, flag or slot. -/
def Obligations.ResidentTagsAreIdempotent : Prop :=
  ∀ (records : List AccessRecord) (s : State), s.Inv → s.phase = .running →
    s.cfg.mapping = .fullyAssociative → s.stats.accesses.toNat + records.length < 2 ^ 64 →
    (∀ r, r ∈ records → BitVec.ofNat 26 (r.address.toNat / 64) ∈
      (s.bank (s.bankFor r.kind)).residentTags s.bankLength.toNat) →
    ∃ t, Sys2Proof.core.run records.length
        { s with inputs := offerAll (records.map AccessRecord.command) } = .next t ∧
      t.bank0 = s.bank0 ∧ t.bank1 = s.bank1 ∧
      t.stats.hits.toNat = s.stats.hits.toNat + records.length ∧ t.stats.evicts = s.stats.evicts

/-- R85: on every state that satisfies the invariant the sequential scan answers what the parallel
compare answers, and at most one slot matches. On a running associative state outside the invariant,
which no run reaches, they can differ (U9). -/
def Obligations.ParallelCompareEqualsScan : Prop :=
  (∀ (b : BankId) (tag : Tag) (s : State), s.Inv → s.phase = .running ∨ s.phase = .ended →
    s.cfg.mapping = .fullyAssociative → b.number < s.nBanks.toNat →
    faContains b tag s = .ok (faContainsParallel b tag s) ∧
    (∀ i j, i < s.bankLength.toNat → j < s.bankLength.toNat →
      (s.bank b).slot i = { tag := tag, valid := true } →
      (s.bank b).slot j = { tag := tag, valid := true } → i = j)) ∧
  (∃ (b : BankId) (tag : Tag) (s : State), ¬ s.Inv ∧ s.phase = .running ∧
    s.cfg.mapping = .fullyAssociative ∧ s.RegistersDerived ∧ b.number < s.nBanks.toNat ∧
    faContains b tag s = .ok false ∧ faContainsParallel b tag s = true)

/-- R75, R81: a direct-mapped bank of one slot behaves as the associative ring of length 1 does: read as
rings, the two machines take the same step on every command. -/
def Obligations.OneSlotBankIsARingOfOne : Prop :=
  ∀ (i : Instr) (s t : State), s.Inv → s.phase = .running → s.cfg.mapping = .directMapped →
    s.bankLength = 1 → exec i s = .next t →
    s.asRing.Inv ∧ exec i s.asRing = .next t.asRing

/-! ### The dispatcher, the counters and the response -/

/-- R86, R121: under Split the two kinds' banks do not interact: an access leaves the other kind's bank
alone, and does the same whatever that bank holds. -/
def Obligations.SplitBanksDoNotInteract : Prop :=
  ∀ (a : Addr) (s t : State) (bk : Bank), s.cfg.org = .split →
    (exec (.accessI a) s = .next t → t.bank1 = s.bank1 ∧
      exec (.accessI a) { s with bank1 := bk } = .next { t with bank1 := bk }) ∧
    (exec (.accessD a) s = .next t → t.bank0 = s.bank0 ∧
      exec (.accessD a) { s with bank0 := bk } = .next { t with bank0 := bk })

/-- R86, R88: under Unified both kinds use bank 0: the kind changes `resp_kind` and nothing else. -/
def Obligations.UnifiedSharesBankZero : Prop :=
  ∀ (a : Addr) (s t : State), s.cfg.org = .unified → s.CanAccess → exec (.accessI a) s = .next t →
    t.bank1 = s.bank1 ∧
    exec (.accessD a) s = .next { t with resp := { t.resp with kind := .data } }

/-- R12, R34: the offset takes part in no outcome: two addresses of one 64-byte block differ in
`resp_offset` and in nothing else. -/
def Obligations.OffsetTakesNoPart : Prop :=
  ∀ (k : AccessKind) (a a' : Addr) (s t : State), s.Inv → s.CanAccess →
    a.toNat / 64 = a'.toNat / 64 → exec (accessOf k a) s = .next t →
    exec (accessOf k a') s =
      .next { t with resp := { t.resp with offset := BitVec.ofNat 6 (a'.toNat % 64) } }

/-- R35, R121: the same block accessed twice in a row hits the second time, and the second access
leaves both banks as they were. -/
def Obligations.SecondAccessHits : Prop :=
  ∀ (k : AccessKind) (a : Addr) (s : State), s.Inv → s.phase = .running →
    s.stats.accesses.toNat + 2 < 2 ^ 64 →
    ∃ t u, exec (accessOf k a) s = .next t ∧ exec (accessOf k a) t = .next u ∧
      u.resp.hit = true ∧ u.resp.evict = false ∧ u.bank0 = t.bank0 ∧ u.bank1 = t.bank1

/-- R93: the counter law. A completed access counts 1 access, 1 hit exactly when it hit, 1 eviction
exactly when it evicted, and never both of these; no other command changes a counter, but CONFIGURE's
allocation and reset, which zero them. -/
def Obligations.CounterLaw : Prop :=
  (∀ (k : AccessKind) (a : Addr) (s t : State), s.Inv → s.CanAccess →
    exec (accessOf k a) s = .next t →
    t.stats.accesses.toNat = s.stats.accesses.toNat + 1 ∧
    t.stats.hits.toNat = s.stats.hits.toNat + (if t.resp.hit then 1 else 0) ∧
    t.stats.evicts.toNat = s.stats.evicts.toNat + (if t.resp.evict then 1 else 0) ∧
    ¬(t.resp.hit = true ∧ t.resp.evict = true)) ∧
  (∀ (i : Instr) (s t : State), exec i s = .next t →
    (¬ s.CanAccess ∨ ∀ k a, i ≠ accessOf k a) → s.phase ≠ .unconfigured ∨ t.phase ≠ .running →
    t.stats = s.stats) ∧
  (∀ (i : Instr) (s t : State), exec i s = .next t → s.phase = .unconfigured → t.phase = .running →
    t.stats = { accesses := 0, hits := 0, evicts := 0 }) ∧
  (∀ s t : State, s.rstAsserted = true → step s = .next t →
    t.stats = { accesses := 0, hits := 0, evicts := 0 })

/-- R23: the counters are monotonic: no step but a reset makes one smaller. -/
def Obligations.CountersAreMonotonic : Prop :=
  ∀ s t : State, s.Inv → s.NoReset → step s = .next t →
    s.stats.accesses.toNat ≤ t.stats.accesses.toNat ∧ s.stats.hits.toNat ≤ t.stats.hits.toNat ∧
    s.stats.evicts.toNat ≤ t.stats.evicts.toNat

/-- R52: the response outputs are updated by every ACCESS that completes without error, with the decoded
fields zero-extended, and by no other command. -/
def Obligations.ResponseWrittenByCompletedAccessOnly : Prop :=
  (∀ (k : AccessKind) (a : Addr) (s t : State), s.Inv → s.CanAccess →
    exec (accessOf k a) s = .next t →
    t.resp.valid = true ∧ t.resp.kind = k ∧ t.resp.offset.toNat = a.toNat % 64 ∧
    t.resp.index.toNat = s.indexOf a ∧ t.resp.tag.toNat = s.tagOf a) ∧
  (∀ (i : Instr) (s t : State), exec i s = .next t → (¬ s.CanAccess ∨ ∀ k a, i ≠ accessOf k a) →
    t.resp = s.resp)

/-! ### The life cycle -/

/-- R16: the phase transitions, and no others. -/
def Obligations.PhaseTransitions : Prop :=
  (∀ s t : State, step s = .next t → s.rstAsserted = true → t.phase = .unconfigured) ∧
  (∀ (s t : State) (p : PortSample) (rest : List PortSample), s.inputs = p :: rest →
    p.rst = false → p.cmdValid = true → step s = .next t →
    (s.phase = .unconfigured →
      (t.phase = .running ∧ ∃ size map org, decodeCmd p.cmd = .configure size map org 0) ∨
      t.phase = .faulted) ∧
    (s.phase = .running →
      (t.phase = .running ∧ ∃ k a, decodeCmd p.cmd = accessOf k a) ∨
      (t.phase = .ended ∧ decodeCmd p.cmd = .endTrace 0) ∨ t.phase = .faulted) ∧
    (s.phase = .ended → t.phase = .faulted) ∧
    (s.phase = .faulted → t.phase = .faulted))

/-- R18, R19, R120: the configuration and the derived registers are written by a successful CONFIGURE,
once per reset, and by nothing else. -/
def Obligations.ConfigurationWrittenOncePerReset : Prop :=
  ∀ s t : State, s.NoReset → step s = .next t → s.phase ≠ .unconfigured ∨ t.phase ≠ .running →
    t.cfg = s.cfg ∧ t.nBanks = s.nBanks ∧ t.bankLength = s.bankLength ∧ t.fields = s.fields

/-- R17: the error registers are written by a fault entry only, so at most once between resets, and
`err_code` is not 0 exactly when the phase is FAULTED. -/
def Obligations.FirstErrorIsKept : Prop :=
  (∀ s t : State, s.NoReset → step s = .next t → s.phase = .faulted ∨ t.phase ≠ .faulted →
    t.errCode = s.errCode ∧ t.errCmd = s.errCmd) ∧
  (∀ s t : State, s.Inv → step s = .next t → (t.errCode ≠ 0 ↔ t.phase = .faulted)) ∧
  State.reset.errCode = 0 ∧ State.reset.errCmd = 0

/-- R20, R25, R28 (v), R42, R72: no step but a reset clears a valid bit or the flag of a full ring. -/
def Obligations.ValidAndFullStaySet : Prop :=
  ∀ s t : State, s.Inv → s.NoReset → step s = .next t → ∀ b : BankId,
    (∀ j, ((s.bank b).slot j).valid = true → ((t.bank b).slot j).valid = true) ∧
    ((s.bank b).isFull = true → (t.bank b).isFull = true)

/-! ### Invariants and runs -/

/-- R116: the invariant, the account of the misses and the ring's fill law hold at reset. -/
def Obligations.InvariantAtReset : Prop :=
  State.reset.Inv ∧ State.reset.MissesAccounted ∧ State.reset.RingFillLaw

/-- R17 to R19, R27, R28, R29, R70, R82: every step keeps the invariant. -/
def Obligations.EveryStepKeepsTheInvariant : Prop :=
  ∀ s t : State, s.Inv → step s = .next t → t.Inv

/-- R32, R64, R101: in a state that satisfies the invariant no step stops: no bank access is out of
range, no field width underflows, and every command has an outcome. -/
def Obligations.NoStepStops : Prop :=
  ∀ s : State, s.Inv → ∃ t, step s = .next t

/-- R74 (ii), R82 (iv), R83 (iii): every step keeps the account of the misses: each miss was an eviction
or made a slot valid. -/
def Obligations.EveryStepKeepsTheMissAccount : Prop :=
  ∀ s t : State, s.Inv → s.MissesAccounted → step s = .next t → t.MissesAccounted

/-- R29, R103, R116: every run from reset, whatever the host drives, goes on and keeps the invariant and
the account of the misses. -/
def Obligations.RunsFromResetNeverStop : Prop :=
  ∀ (ins : List PortSample) (n : Nat), ∃ t,
    Sys2Proof.core.run n { State.reset with inputs := ins } = .next t ∧ t.Inv ∧ t.MissesAccounted

/-- R119, R125, R127: the well-formed run, from any state whatever (a block that was never reset among
them): reset, a valid CONFIGURE that fits, one ACCESS per record, END_TRACE. It ends successful, with one
access counted per record, every miss accounted for and every sample used. -/
def Obligations.WellFormedRunSucceeds : Prop :=
  ∀ (size : BitVec 16) (map : Mapping) (org : Organization) (records : List AccessRecord)
    (s : State), size ∈ legalSizes → size.toNat / 64 ≤ s.params.maxBlocks →
    records.length < 2 ^ 64 →
    ∃ t, Sys2Proof.core.run (records.length + 3)
        { s with inputs := wellFormedRun size map org records } = .next t ∧
      t.runStatus = .successful t.stats.accesses t.stats.hits t.stats.evicts ∧
      t.stats.accesses.toNat = records.length ∧ t.Inv ∧ t.MissesAccounted ∧ t.inputs = []

/-! ### Outputs and the assembler -/

/-- R53, R54: the status outputs are driven from the state at all times. With `rst = 0` the block is ready
and a read shows them: that clause is R45 and R123 in the untimed model, where no state stands inside a
command (notes/assumptions/10.md, DEDUCED) and the block is ready at every sample without `rst`
(notes/assumptions/19.md, DESIGN CHOICE). -/
def Obligations.StatusOutputsShowTheState : Prop :=
  ∀ s : State,
    s.portValues.phase.toNat = (match s.phase with
      | .unconfigured => 0 | .running => 1 | .ended => 2 | .faulted => 3) ∧
    s.portValues.errCode = s.errCode ∧ s.portValues.errCmd = s.errCmd ∧
    (s.portValues.fault = 1 ↔ s.phase = .faulted) ∧
    s.portValues.statAccesses = s.stats.accesses ∧ s.portValues.statHits = s.stats.hits ∧
    s.portValues.statEvicts = s.stats.evicts ∧
    (s.rstAsserted = false → s.outputs.cmdReady = 1 ∧ s.outputs.read = some s.portValues)

/-- R95: the hit rate is the exact rational `stat_hits / stat_accesses`, and is refused when there was
no access. -/
def Obligations.HitRateIsExactOrRefused : Prop :=
  ∀ s : State,
    (s.portValues.statAccesses.toNat = 0 → s.hitRate = none) ∧
    (0 < s.portValues.statAccesses.toNat → ∃ q : Rat, s.hitRate = some q ∧
      q * (s.portValues.statAccesses.toNat : Rat) = (s.portValues.statHits.toNat : Rat))

/-- R58: the spelled examples assemble to the words the rule gives. -/
def Obligations.SpelledExamplesAssemble : Prop :=
  (match assembleLine "CONFIGURE 128, DM, UNIFIED".toList with
    | .ok i => encode i | .error _ => 0) = 0x100000080#36 ∧
  (match assembleLine "CONFIGURE 4096, FA, SPLIT".toList with
    | .ok i => encode i | .error _ => 0) = 0x100031000#36 ∧
  (match assembleLine "ACCESS_D 0x8cda3fa8".toList with
    | .ok i => encode i | .error _ => 0) = 0x38CDA3FA8#36 ∧
  (match assembleLine "ACCESS_I 0".toList with
    | .ok i => encode i | .error _ => 0) = 0x200000000#36 ∧
  (match assembleLine "END_TRACE".toList with
    | .ok i => encode i | .error _ => 0) = 0x400000000#36

/-- R59: a trace file of N lines expands to N ACCESS commands followed by one END_TRACE. -/
def Obligations.TraceExpandsLineByLine : Prop :=
  ∀ (lines : List (List Char)) (cmds : List Instr), assembleTrace lines = .ok cmds →
    ∃ records : List AccessRecord, records.length = lines.length ∧
      cmds = records.map AccessRecord.command ++ [.endTrace 0] ∧
      ∀ i, i < lines.length → (lines[i]?).map traceLine = (records[i]?).map .ok

/-! ### What a read of the outputs answers -/

/-- R44, R45, R52: outside reset `cmd_ready` is 1, in every phase (R104: in FAULTED too), and a read of the
response outputs shows the response registers. That `cmd_ready` is 1 at every sample without `rst` is the
untimed model's (notes/assumptions/10.md, DEDUCED; 19.md, DESIGN CHOICE). -/
def Obligations.ResponseOutputsShowTheState : Prop :=
  ∀ s : State, s.rstAsserted = false →
    s.outputs.cmdReady = 1 ∧
    ∃ v, s.outputs.read = some v ∧
      (v.respValid = 1 ↔ s.resp.valid = true) ∧ (v.respHit = 1 ↔ s.resp.hit = true) ∧
      (v.respEvict = 1 ↔ s.resp.evict = true) ∧
      v.respKind.toNat = (match s.resp.kind with | .instruction => 0 | .data => 1) ∧
      v.respOffset = s.resp.offset ∧ v.respIndex = s.resp.index ∧ v.respTag = s.resp.tag

/-- R45, R123, U4: a read of the outputs has a defined value exactly while `cmd_ready = 1`, and then it is
what the state drives; while a command is performed and in reset (notes/assumptions/20.md) it has none.
That a state has `cmd_ready` 0 in reset only is the untimed model's (notes/assumptions/10.md, DEDUCED;
19.md, DESIGN CHOICE).
What may be seen then is bounded by the old and the new values: in FAULTED, where a command changes
nothing (R104), nothing else than the values held can be seen. -/
def Obligations.OutputsDefinedOnlyWhileReady : Prop :=
  (∀ s : State, (s.outputs.cmdReady = 1 ↔ s.outputs.read = some s.portValues) ∧
    (s.outputs.cmdReady = 0 ↔ s.outputs.read = none) ∧
    (s.outputs.cmdReady = 0 ↔ ∃ p rest, s.inputs = p :: rest ∧ p.rst = true)) ∧
  (Outputs.notReady.cmdReady = 0 ∧ Outputs.notReady.read = none) ∧
  (∀ (i : Instr) (s t : State) (seen : PortValues), s.phase = .faulted → exec i s = .next t →
    PortValues.OldOrNew s.portValues t.portValues seen → seen = s.portValues)
end

