-- ==== Sys2Proof/Laws/State.lean ====
section
/-! SUPPORT. One lemma per field per update of the state: what each update leaves in each field. -/

namespace Sys2Proof.Machine

/-! ### raiseError (R103) -/

@[simp] theorem raiseError_phase (e : BlockError) (w : CmdWord) (s : State) :
    (raiseError e w s).phase = .faulted := rfl

@[simp] theorem raiseError_errCode (e : BlockError) (w : CmdWord) (s : State) :
    (raiseError e w s).errCode = e.code := rfl

@[simp] theorem raiseError_errCmd (e : BlockError) (w : CmdWord) (s : State) :
    (raiseError e w s).errCmd = w := rfl

@[simp] theorem raiseError_cfg (e : BlockError) (w : CmdWord) (s : State) :
    (raiseError e w s).cfg = s.cfg := rfl

@[simp] theorem raiseError_nBanks (e : BlockError) (w : CmdWord) (s : State) :
    (raiseError e w s).nBanks = s.nBanks := rfl

@[simp] theorem raiseError_bankLength (e : BlockError) (w : CmdWord) (s : State) :
    (raiseError e w s).bankLength = s.bankLength := rfl

@[simp] theorem raiseError_fields (e : BlockError) (w : CmdWord) (s : State) :
    (raiseError e w s).fields = s.fields := rfl

@[simp] theorem raiseError_bank0 (e : BlockError) (w : CmdWord) (s : State) :
    (raiseError e w s).bank0 = s.bank0 := rfl

@[simp] theorem raiseError_bank1 (e : BlockError) (w : CmdWord) (s : State) :
    (raiseError e w s).bank1 = s.bank1 := rfl

@[simp] theorem raiseError_stats (e : BlockError) (w : CmdWord) (s : State) :
    (raiseError e w s).stats = s.stats := rfl

@[simp] theorem raiseError_resp (e : BlockError) (w : CmdWord) (s : State) :
    (raiseError e w s).resp = s.resp := rfl

@[simp] theorem raiseError_params (e : BlockError) (w : CmdWord) (s : State) :
    (raiseError e w s).params = s.params := rfl

@[simp] theorem raiseError_inputs (e : BlockError) (w : CmdWord) (s : State) :
    (raiseError e w s).inputs = s.inputs := rfl

/-! ### applyReset (R116) -/

@[simp] theorem applyReset_phase (s : State) : (applyReset s).phase = State.reset.phase := rfl

@[simp] theorem applyReset_errCode (s : State) : (applyReset s).errCode = State.reset.errCode := rfl

@[simp] theorem applyReset_errCmd (s : State) : (applyReset s).errCmd = State.reset.errCmd := rfl

@[simp] theorem applyReset_cfg (s : State) : (applyReset s).cfg = State.reset.cfg := rfl

@[simp] theorem applyReset_nBanks (s : State) : (applyReset s).nBanks = State.reset.nBanks := rfl

@[simp] theorem applyReset_bankLength (s : State) :
    (applyReset s).bankLength = State.reset.bankLength := rfl

@[simp] theorem applyReset_fields (s : State) : (applyReset s).fields = State.reset.fields := rfl

@[simp] theorem applyReset_bank0 (s : State) : (applyReset s).bank0 = State.reset.bank0 := rfl

@[simp] theorem applyReset_bank1 (s : State) : (applyReset s).bank1 = State.reset.bank1 := rfl

@[simp] theorem applyReset_stats (s : State) : (applyReset s).stats = State.reset.stats := rfl

@[simp] theorem applyReset_resp (s : State) : (applyReset s).resp = State.reset.resp := rfl

@[simp] theorem applyReset_params (s : State) : (applyReset s).params = s.params := rfl

@[simp] theorem applyReset_inputs (s : State) : (applyReset s).inputs = s.inputs := rfl

/-! ### setBank -/

@[simp] theorem setBank_bank_self (s : State) (b : BankId) (bk : Bank) : (s.setBank b bk).bank b = bk := by
  cases b <;> rfl

theorem setBank_bank_of_ne (s : State) (b c : BankId) (bk : Bank) (h : c ≠ b) :
    (s.setBank b bk).bank c = s.bank c := by
  cases b <;> cases c <;> first | rfl | exact absurd rfl h

@[simp] theorem setBank_setBank (s : State) (b : BankId) (bk bk' : Bank) :
    (s.setBank b bk).setBank b bk' = s.setBank b bk' := by
  cases b <;> rfl

@[simp] theorem setBank_bank_eq (s : State) (b : BankId) : s.setBank b (s.bank b) = s := by
  cases b <;> rfl

@[simp] theorem bank_bank0 (s : State) : s.bank .bank0 = s.bank0 := rfl

@[simp] theorem bank_bank1 (s : State) : s.bank .bank1 = s.bank1 := rfl

@[simp] theorem setBank_bank0 (s : State) (bk : Bank) : s.setBank .bank0 bk = { s with bank0 := bk } := rfl

@[simp] theorem setBank_bank1 (s : State) (bk : Bank) : s.setBank .bank1 bk = { s with bank1 := bk } := rfl

@[simp] theorem setBank_phase (s : State) (b : BankId) (bk : Bank) :
    (s.setBank b bk).phase = s.phase := by
  cases b <;> rfl

@[simp] theorem setBank_errCode (s : State) (b : BankId) (bk : Bank) :
    (s.setBank b bk).errCode = s.errCode := by
  cases b <;> rfl

@[simp] theorem setBank_errCmd (s : State) (b : BankId) (bk : Bank) :
    (s.setBank b bk).errCmd = s.errCmd := by
  cases b <;> rfl

@[simp] theorem setBank_cfg (s : State) (b : BankId) (bk : Bank) :
    (s.setBank b bk).cfg = s.cfg := by
  cases b <;> rfl

@[simp] theorem setBank_nBanks (s : State) (b : BankId) (bk : Bank) :
    (s.setBank b bk).nBanks = s.nBanks := by
  cases b <;> rfl

@[simp] theorem setBank_bankLength (s : State) (b : BankId) (bk : Bank) :
    (s.setBank b bk).bankLength = s.bankLength := by
  cases b <;> rfl

@[simp] theorem setBank_fields (s : State) (b : BankId) (bk : Bank) :
    (s.setBank b bk).fields = s.fields := by
  cases b <;> rfl

@[simp] theorem setBank_stats (s : State) (b : BankId) (bk : Bank) :
    (s.setBank b bk).stats = s.stats := by
  cases b <;> rfl

@[simp] theorem setBank_resp (s : State) (b : BankId) (bk : Bank) :
    (s.setBank b bk).resp = s.resp := by
  cases b <;> rfl

@[simp] theorem setBank_params (s : State) (b : BankId) (bk : Bank) :
    (s.setBank b bk).params = s.params := by
  cases b <;> rfl

@[simp] theorem setBank_inputs (s : State) (b : BankId) (bk : Bank) :
    (s.setBank b bk).inputs = s.inputs := by
  cases b <;> rfl

/-! ### Cursors and flag -/

theorem setStart_eq (s : State) (b : BankId) (c : BitVec 6) :
    s.setStart b c = s.setBank b { s.bank b with start := c } := rfl

theorem setEnd_eq (s : State) (b : BankId) (c : BitVec 6) :
    s.setEnd b c = s.setBank b { s.bank b with end_ := c } := rfl

theorem setFull_eq (s : State) (b : BankId) (f : Bool) :
    s.setFull b f = s.setBank b { s.bank b with isFull := f } := rfl

/-! ### Counters and response -/

@[simp] theorem recordAccess_phase (s : State) : (recordAccess s).phase = s.phase := rfl

@[simp] theorem recordAccess_errCode (s : State) : (recordAccess s).errCode = s.errCode := rfl

@[simp] theorem recordAccess_errCmd (s : State) : (recordAccess s).errCmd = s.errCmd := rfl

@[simp] theorem recordAccess_cfg (s : State) : (recordAccess s).cfg = s.cfg := rfl

@[simp] theorem recordAccess_nBanks (s : State) : (recordAccess s).nBanks = s.nBanks := rfl

@[simp] theorem recordAccess_bankLength (s : State) :
    (recordAccess s).bankLength = s.bankLength := rfl

@[simp] theorem recordAccess_fields (s : State) : (recordAccess s).fields = s.fields := rfl

@[simp] theorem recordAccess_bank0 (s : State) : (recordAccess s).bank0 = s.bank0 := rfl

@[simp] theorem recordAccess_bank1 (s : State) : (recordAccess s).bank1 = s.bank1 := rfl

@[simp] theorem recordAccess_accesses (s : State) :
    (recordAccess s).stats.accesses = s.stats.accesses + 1 := rfl

@[simp] theorem recordAccess_hits (s : State) : (recordAccess s).stats.hits = s.stats.hits := rfl

@[simp] theorem recordAccess_evicts (s : State) :
    (recordAccess s).stats.evicts = s.stats.evicts := rfl

@[simp] theorem recordAccess_resp (s : State) : (recordAccess s).resp = s.resp := rfl

@[simp] theorem recordAccess_params (s : State) : (recordAccess s).params = s.params := rfl

@[simp] theorem recordAccess_inputs (s : State) : (recordAccess s).inputs = s.inputs := rfl

@[simp] theorem recordHit_phase (s : State) : (recordHit s).phase = s.phase := rfl

@[simp] theorem recordHit_errCode (s : State) : (recordHit s).errCode = s.errCode := rfl

@[simp] theorem recordHit_errCmd (s : State) : (recordHit s).errCmd = s.errCmd := rfl

@[simp] theorem recordHit_cfg (s : State) : (recordHit s).cfg = s.cfg := rfl

@[simp] theorem recordHit_nBanks (s : State) : (recordHit s).nBanks = s.nBanks := rfl

@[simp] theorem recordHit_bankLength (s : State) : (recordHit s).bankLength = s.bankLength := rfl

@[simp] theorem recordHit_fields (s : State) : (recordHit s).fields = s.fields := rfl

@[simp] theorem recordHit_bank0 (s : State) : (recordHit s).bank0 = s.bank0 := rfl

@[simp] theorem recordHit_bank1 (s : State) : (recordHit s).bank1 = s.bank1 := rfl

@[simp] theorem recordHit_accesses (s : State) :
    (recordHit s).stats.accesses = s.stats.accesses := rfl

@[simp] theorem recordHit_hits (s : State) : (recordHit s).stats.hits = s.stats.hits + 1 := rfl

@[simp] theorem recordHit_evicts (s : State) : (recordHit s).stats.evicts = s.stats.evicts := rfl

@[simp] theorem recordHit_resp (s : State) : (recordHit s).resp = s.resp := rfl

@[simp] theorem recordHit_params (s : State) : (recordHit s).params = s.params := rfl

@[simp] theorem recordHit_inputs (s : State) : (recordHit s).inputs = s.inputs := rfl

@[simp] theorem recordEvict_phase (s : State) : (recordEvict s).phase = s.phase := rfl

@[simp] theorem recordEvict_errCode (s : State) : (recordEvict s).errCode = s.errCode := rfl

@[simp] theorem recordEvict_errCmd (s : State) : (recordEvict s).errCmd = s.errCmd := rfl

@[simp] theorem recordEvict_cfg (s : State) : (recordEvict s).cfg = s.cfg := rfl

@[simp] theorem recordEvict_nBanks (s : State) : (recordEvict s).nBanks = s.nBanks := rfl

@[simp] theorem recordEvict_bankLength (s : State) :
    (recordEvict s).bankLength = s.bankLength := rfl

@[simp] theorem recordEvict_fields (s : State) : (recordEvict s).fields = s.fields := rfl

@[simp] theorem recordEvict_bank0 (s : State) : (recordEvict s).bank0 = s.bank0 := rfl

@[simp] theorem recordEvict_bank1 (s : State) : (recordEvict s).bank1 = s.bank1 := rfl

@[simp] theorem recordEvict_accesses (s : State) :
    (recordEvict s).stats.accesses = s.stats.accesses := rfl

@[simp] theorem recordEvict_hits (s : State) : (recordEvict s).stats.hits = s.stats.hits := rfl

@[simp] theorem recordEvict_evicts (s : State) :
    (recordEvict s).stats.evicts = s.stats.evicts + 1 := rfl

@[simp] theorem recordEvict_resp (s : State) : (recordEvict s).resp = s.resp := rfl

@[simp] theorem recordEvict_params (s : State) : (recordEvict s).params = s.params := rfl

@[simp] theorem recordEvict_inputs (s : State) : (recordEvict s).inputs = s.inputs := rfl

@[simp] theorem recordOutcome_phase (r : LookupResult) (s : State) :
    (recordOutcome r s).phase = s.phase := by
  rcases r with ⟨_ | _, _ | _⟩ <;> rfl

@[simp] theorem recordOutcome_errCode (r : LookupResult) (s : State) :
    (recordOutcome r s).errCode = s.errCode := by
  rcases r with ⟨_ | _, _ | _⟩ <;> rfl

@[simp] theorem recordOutcome_errCmd (r : LookupResult) (s : State) :
    (recordOutcome r s).errCmd = s.errCmd := by
  rcases r with ⟨_ | _, _ | _⟩ <;> rfl

@[simp] theorem recordOutcome_cfg (r : LookupResult) (s : State) :
    (recordOutcome r s).cfg = s.cfg := by
  rcases r with ⟨_ | _, _ | _⟩ <;> rfl

@[simp] theorem recordOutcome_nBanks (r : LookupResult) (s : State) :
    (recordOutcome r s).nBanks = s.nBanks := by
  rcases r with ⟨_ | _, _ | _⟩ <;> rfl

@[simp] theorem recordOutcome_bankLength (r : LookupResult) (s : State) :
    (recordOutcome r s).bankLength = s.bankLength := by
  rcases r with ⟨_ | _, _ | _⟩ <;> rfl

@[simp] theorem recordOutcome_fields (r : LookupResult) (s : State) :
    (recordOutcome r s).fields = s.fields := by
  rcases r with ⟨_ | _, _ | _⟩ <;> rfl

@[simp] theorem recordOutcome_bank0 (r : LookupResult) (s : State) :
    (recordOutcome r s).bank0 = s.bank0 := by
  rcases r with ⟨_ | _, _ | _⟩ <;> rfl

@[simp] theorem recordOutcome_bank1 (r : LookupResult) (s : State) :
    (recordOutcome r s).bank1 = s.bank1 := by
  rcases r with ⟨_ | _, _ | _⟩ <;> rfl

@[simp] theorem recordOutcome_resp (r : LookupResult) (s : State) :
    (recordOutcome r s).resp = s.resp := by
  rcases r with ⟨_ | _, _ | _⟩ <;> rfl

@[simp] theorem recordOutcome_params (r : LookupResult) (s : State) :
    (recordOutcome r s).params = s.params := by
  rcases r with ⟨_ | _, _ | _⟩ <;> rfl

@[simp] theorem recordOutcome_inputs (r : LookupResult) (s : State) :
    (recordOutcome r s).inputs = s.inputs := by
  rcases r with ⟨_ | _, _ | _⟩ <;> rfl

/-- What one access adds to the counters (R90 to R92). -/
theorem recordOutcome_stats (r : LookupResult) (s : State) :
    (recordOutcome r s).stats =
      { accesses := s.stats.accesses + 1
        hits := if r.result.isHit then s.stats.hits + 1 else s.stats.hits
        evicts := if r.evicted then s.stats.evicts + 1 else s.stats.evicts } := by
  rcases r with ⟨_ | _, _ | _⟩ <;> rfl

@[simp] theorem respond_phase (r : LookupResult) (k : AccessKind) (p : AddressParts) (s : State) :
    (respond r k p s).phase = s.phase := rfl

@[simp] theorem respond_errCode (r : LookupResult) (k : AccessKind) (p : AddressParts) (s : State) :
    (respond r k p s).errCode = s.errCode := rfl

@[simp] theorem respond_errCmd (r : LookupResult) (k : AccessKind) (p : AddressParts) (s : State) :
    (respond r k p s).errCmd = s.errCmd := rfl

@[simp] theorem respond_cfg (r : LookupResult) (k : AccessKind) (p : AddressParts) (s : State) :
    (respond r k p s).cfg = s.cfg := rfl

@[simp] theorem respond_nBanks (r : LookupResult) (k : AccessKind) (p : AddressParts) (s : State) :
    (respond r k p s).nBanks = s.nBanks := rfl

@[simp] theorem respond_bankLength (r : LookupResult) (k : AccessKind) (p : AddressParts) (s : State) :
    (respond r k p s).bankLength = s.bankLength := rfl

@[simp] theorem respond_fields (r : LookupResult) (k : AccessKind) (p : AddressParts) (s : State) :
    (respond r k p s).fields = s.fields := rfl

@[simp] theorem respond_bank0 (r : LookupResult) (k : AccessKind) (p : AddressParts) (s : State) :
    (respond r k p s).bank0 = s.bank0 := rfl

@[simp] theorem respond_bank1 (r : LookupResult) (k : AccessKind) (p : AddressParts) (s : State) :
    (respond r k p s).bank1 = s.bank1 := rfl

@[simp] theorem respond_stats (r : LookupResult) (k : AccessKind) (p : AddressParts) (s : State) :
    (respond r k p s).stats = s.stats := rfl

@[simp] theorem respond_resp_valid (r : LookupResult) (k : AccessKind) (p : AddressParts) (s : State) :
    (respond r k p s).resp.valid = true := rfl

@[simp] theorem respond_resp_hit (r : LookupResult) (k : AccessKind) (p : AddressParts) (s : State) :
    (respond r k p s).resp.hit = r.result.isHit := rfl

@[simp] theorem respond_resp_evict (r : LookupResult) (k : AccessKind) (p : AddressParts) (s : State) :
    (respond r k p s).resp.evict = r.evicted := rfl

@[simp] theorem respond_resp_kind (r : LookupResult) (k : AccessKind) (p : AddressParts) (s : State) :
    (respond r k p s).resp.kind = k := rfl

@[simp] theorem respond_resp_offset (r : LookupResult) (k : AccessKind) (p : AddressParts) (s : State) :
    (respond r k p s).resp.offset = p.offset.setWidth 6 := rfl

@[simp] theorem respond_resp_index (r : LookupResult) (k : AccessKind) (p : AddressParts) (s : State) :
    (respond r k p s).resp.index = p.index.setWidth 6 := rfl

@[simp] theorem respond_resp_tag (r : LookupResult) (k : AccessKind) (p : AddressParts) (s : State) :
    (respond r k p s).resp.tag = p.tag26 := rfl

@[simp] theorem respond_params (r : LookupResult) (k : AccessKind) (p : AddressParts) (s : State) :
    (respond r k p s).params = s.params := rfl

@[simp] theorem respond_inputs (r : LookupResult) (k : AccessKind) (p : AddressParts) (s : State) :
    (respond r k p s).inputs = s.inputs := rfl

/-! ### Allocation (R97) -/

@[simp] theorem allocateBanks_phase (nb L : Nat) (s : State) :
    (allocateBanks nb L s).phase = s.phase := rfl

@[simp] theorem allocateBanks_errCode (nb L : Nat) (s : State) :
    (allocateBanks nb L s).errCode = s.errCode := rfl

@[simp] theorem allocateBanks_errCmd (nb L : Nat) (s : State) :
    (allocateBanks nb L s).errCmd = s.errCmd := rfl

@[simp] theorem allocateBanks_cfg (nb L : Nat) (s : State) :
    (allocateBanks nb L s).cfg = s.cfg := rfl

@[simp] theorem allocateBanks_nBanks (nb L : Nat) (s : State) :
    (allocateBanks nb L s).nBanks = s.nBanks := rfl

@[simp] theorem allocateBanks_bankLength (nb L : Nat) (s : State) :
    (allocateBanks nb L s).bankLength = s.bankLength := rfl

@[simp] theorem allocateBanks_fields (nb L : Nat) (s : State) :
    (allocateBanks nb L s).fields = s.fields := rfl

@[simp] theorem allocateBanks_bank0 (nb L : Nat) (s : State) :
    (allocateBanks nb L s).bank0 = if BankId.bank0.number < nb then s.bank0.allocate L else s.bank0 := rfl

@[simp] theorem allocateBanks_bank1 (nb L : Nat) (s : State) :
    (allocateBanks nb L s).bank1 = if BankId.bank1.number < nb then s.bank1.allocate L else s.bank1 := rfl

@[simp] theorem allocateBanks_stats (nb L : Nat) (s : State) :
    (allocateBanks nb L s).stats = s.stats := rfl

@[simp] theorem allocateBanks_resp (nb L : Nat) (s : State) :
    (allocateBanks nb L s).resp = s.resp := rfl

@[simp] theorem allocateBanks_params (nb L : Nat) (s : State) :
    (allocateBanks nb L s).params = s.params := rfl

@[simp] theorem allocateBanks_inputs (nb L : Nat) (s : State) :
    (allocateBanks nb L s).inputs = s.inputs := rfl

@[simp] theorem allocate_start (L : Nat) (bk : Bank) : (bk.allocate L).start = 0 := rfl

@[simp] theorem allocate_end_ (L : Nat) (bk : Bank) : (bk.allocate L).end_ = 0 := rfl

@[simp] theorem allocate_isFull (L : Nat) (bk : Bank) : (bk.allocate L).isFull = false := rfl

end Sys2Proof.Machine
end

