-- ==== Sys2Proof/Laws/Ops.lean ====
section
/-! SUPPORT. What each shared operation can do, said once: later proofs cite these and do not unfold the
operations. -/

namespace Sys2Proof.Machine

/-! ### Bank primitives (R32) -/

theorem inBank_iff (s : State) (b : BankId) (i : Nat) :
    s.inBank b i = true ↔ b.number < s.nBanks.toNat ∧ i < s.bankLength.toNat ∧ i < slotsPerBank := by
  simp [State.inBank, State.ringLength]

theorem bankRead_of_inBank {s : State} {b : BankId} {i : Nat} (h : s.inBank b i = true) :
    bankRead s b i = .ok ((s.bank b).slot i) := by
  simp [bankRead, h, Bank.slot]

theorem bankRead_not_inBank {s : State} {b : BankId} {i : Nat} (h : s.inBank b i = false) :
    bankRead s b i = .error .bankOutOfRange := by
  simp [bankRead, h]

/-- A read that answers is in range and gives the slot. -/
theorem bankRead_ok {s : State} {b : BankId} {i : Nat} {blk : CacheBlock}
    (h : bankRead s b i = .ok blk) : s.inBank b i = true ∧ blk = (s.bank b).slot i := by
  unfold bankRead at h
  split at h
  · next hin => exact ⟨hin, by simpa [Bank.slot] using h.symm⟩
  · cases h

/-- The bank after a write of slot `i`. -/
def Bank.writeSlot (bk : Bank) (i : Nat) (blk : CacheBlock) : Bank :=
  { bk with slots := bk.slots.setIfInBounds i blk }

theorem bankWrite_of_inBank {s : State} {b : BankId} {i : Nat} {blk : CacheBlock}
    (h : s.inBank b i = true) :
    bankWrite s b i blk = .ok (s.setBank b ((s.bank b).writeSlot i blk)) := by
  simp [bankWrite, h, Bank.writeSlot]

/-- A write that answers is in range and writes the one slot. -/
theorem bankWrite_ok {s t : State} {b : BankId} {i : Nat} {blk : CacheBlock}
    (h : bankWrite s b i blk = .ok t) :
    s.inBank b i = true ∧ t = s.setBank b ((s.bank b).writeSlot i blk) := by
  unfold bankWrite at h
  split at h
  · next hin => exact ⟨hin, by simpa [Bank.writeSlot] using h.symm⟩
  · cases h

theorem writeSlot_slot_self (bk : Bank) (i : Nat) (blk : CacheBlock) (h : i < slotsPerBank) :
    (bk.writeSlot i blk).slot i = blk := by
  simp [Bank.slot, Bank.writeSlot, h]

theorem writeSlot_slot_of_ne (bk : Bank) (i j : Nat) (blk : CacheBlock) (h : j ≠ i) :
    (bk.writeSlot i blk).slot j = bk.slot j := by
  simp only [Bank.slot, Bank.writeSlot]
  rw [Vector.getElem?_setIfInBounds_ne (Ne.symm h)]

@[simp] theorem writeSlot_start (bk : Bank) (i : Nat) (blk : CacheBlock) :
    (bk.writeSlot i blk).start = bk.start := rfl

@[simp] theorem writeSlot_end (bk : Bank) (i : Nat) (blk : CacheBlock) :
    (bk.writeSlot i blk).end_ = bk.end_ := rfl

@[simp] theorem writeSlot_isFull (bk : Bank) (i : Nat) (blk : CacheBlock) :
    (bk.writeSlot i blk).isFull = bk.isFull := rfl

@[simp] theorem empty_slot (j : Nat) : Bank.empty.slot j = CacheBlock.empty := by
  by_cases h : j < 64 <;> simp [Bank.slot, Bank.empty, h]

theorem allocate_slot (L j : Nat) (bk : Bank) (hj : j < slotsPerBank) :
    (bk.allocate L).slot j = if j < L then CacheBlock.empty else bk.slot j := by
  simp [Bank.slot, Bank.allocate, hj]

/-! ### The direct-mapped engine (R71) -/

theorem dmLookupOrInstall_of_inBank {s : State} {b : BankId} {index : Nat} (tag : Tag)
    (h : s.inBank b index = true) :
    dmLookupOrInstall b index tag s =
      if ((s.bank b).slot index).valid = false then
        .ok ({ result := .miss, evicted := false },
          s.setBank b ((s.bank b).writeSlot index { tag := tag, valid := true }))
      else if ((s.bank b).slot index).tag = tag then .ok ({ result := .hit, evicted := false }, s)
      else
        .ok ({ result := .miss, evicted := true },
          s.setBank b ((s.bank b).writeSlot index { tag := tag, valid := true })) := by
  simp only [dmLookupOrInstall, bankRead_of_inBank h, bankWrite_of_inBank h]

/-- An access the direct-mapped engine answers changes one bank at most. -/
theorem dmLookupOrInstall_ok {s t : State} {b : BankId} {index : Nat} {tag : Tag} {r : LookupResult}
    (h : dmLookupOrInstall b index tag s = .ok (r, t)) :
    s.inBank b index = true ∧
    (t = s ∨ t = s.setBank b ((s.bank b).writeSlot index { tag := tag, valid := true })) := by
  cases hin : s.inBank b index with
  | false => simp [dmLookupOrInstall, bankRead_not_inBank hin] at h
  | true =>
    rw [dmLookupOrInstall_of_inBank tag hin] at h
    split at h
    · cases h; exact ⟨rfl, .inr rfl⟩
    · split at h
      · cases h; exact ⟨rfl, .inl rfl⟩
      · cases h; exact ⟨rfl, .inr rfl⟩

/-! ### The associative engine (R78 to R80) -/

/-- A cursor moved on stays in a ring of at most 64 slots. -/
theorem advanceCursor_toNat (c : BitVec 6) (L : Nat) (h : 0 < L) (h64 : L ≤ 64) :
    (advanceCursor c L).toNat = (c.toNat + 1) % L := by
  have := Nat.mod_lt (c.toNat + 1) h
  simp only [advanceCursor, BitVec.toNat_ofNat]
  exact Nat.mod_eq_of_lt (by omega)

theorem ringFull_iff (e s : BitVec 6) : ringFull e s = true ↔ e = s := by
  simp [ringFull]

theorem isEmpty_iff (bk : Bank) : bk.isEmpty = true ↔ bk.isFull = false ∧ bk.start = bk.end_ := by
  simp [Bank.isEmpty]

/-- A scan of `n` slots that are all in range answers whether one of them holds the tag. -/
theorem faScan_eq (s : State) (b : BankId) (tag : Tag) (n k : Nat)
    (h : ∀ m, k ≤ m → m < k + n → s.inBank b ((s.bank b).slotIndex s.ringLength m) = true) :
    faScan s b tag n k =
      .ok ((List.range' k n).any fun m =>
        let blk := (s.bank b).slot ((s.bank b).slotIndex s.ringLength m)
        blk.valid && blk.tag == tag) := by
  induction n generalizing k with
  | zero => rfl
  | succ n ih =>
    have hk := h k (Nat.le_refl _) (by omega)
    have hrest := ih (k + 1) (fun m hm hm' => h m (by omega) (by omega))
    simp only [faScan, bankRead_of_inBank hk, List.range'_succ, List.any_cons]
    by_cases hv : ((s.bank b).slot ((s.bank b).slotIndex s.ringLength k)).valid = true <;>
      by_cases ht : ((s.bank b).slot ((s.bank b).slotIndex s.ringLength k)).tag = tag <;>
      simp_all

/-- The bank an install leaves, its write in range (R79). -/
def Bank.installed (bk : Bank) (L : Nat) (tag : Tag) : Bank :=
  { slots := bk.slots.setIfInBounds bk.end_.toNat { tag := tag, valid := true }
    start := if bk.isFull then advanceCursor bk.start L else bk.start
    end_ := advanceCursor bk.end_ L
    isFull := ringFull (advanceCursor bk.end_ L)
      (if bk.isFull then advanceCursor bk.start L else bk.start) }

theorem faInstall_of_inBank {s : State} {b : BankId} (tag : Tag)
    (h : s.inBank b (s.bank b).end_.toNat = true) :
    faInstall b tag s =
      .ok ((s.bank b).isFull, s.setBank b ((s.bank b).installed s.ringLength tag)) := by
  have hd : (faDiscardOldest b s).inBank b ((faDiscardOldest b s).bank b).end_.toNat = true := by
    unfold faDiscardOldest
    split
    · simpa [setStart_eq, State.inBank, State.ringLength] using h
    · exact h
  simp only [faInstall, bankWrite_of_inBank hd]
  cases hf : (s.bank b).isFull <;>
    simp [faDiscardOldest, hf, faCloseInstall, setStart_eq, setEnd_eq, setFull_eq, Bank.writeSlot,
      Bank.installed, State.ringLength]

theorem faInstall_not_inBank {s : State} {b : BankId} (tag : Tag)
    (h : s.inBank b (s.bank b).end_.toNat = false) :
    faInstall b tag s = .error .bankOutOfRange := by
  have hd : (faDiscardOldest b s).inBank b ((faDiscardOldest b s).bank b).end_.toNat = false := by
    unfold faDiscardOldest
    split
    · simpa [setStart_eq, State.inBank, State.ringLength] using h
    · exact h
  simp [faInstall, bankWrite, hd]

/-- An access the associative engine answers: a Hit mutates nothing, a Miss installs (R80). -/
theorem faLookupOrInstall_ok {s t : State} {b : BankId} {tag : Tag} {r : LookupResult}
    (h : faLookupOrInstall b tag s = .ok (r, t)) :
    (faContains b tag s = .ok true ∧ r = { result := .hit, evicted := false } ∧ t = s) ∨
    (faContains b tag s = .ok false ∧ s.inBank b (s.bank b).end_.toNat = true ∧
      r = { result := .miss, evicted := (s.bank b).isFull } ∧
      t = s.setBank b ((s.bank b).installed s.ringLength tag)) := by
  unfold faLookupOrInstall at h
  split at h
  · cases h
  · next hc => cases h; exact .inl ⟨hc, rfl, rfl⟩
  · next hc =>
    cases hin : s.inBank b (s.bank b).end_.toNat with
    | false => rw [faInstall_not_inBank tag hin] at h; cases h
    | true =>
      rw [faInstall_of_inBank tag hin] at h
      cases h
      exact .inr ⟨hc, rfl, rfl, rfl⟩

/-! ### The dispatcher (R87, R88) -/

/-- An access that a bank's engine answers leaves everything but that bank as it was. -/
theorem lookupOrInstall_ok {s t : State} {b : BankId} {p : AddressParts} {r : LookupResult}
    (h : lookupOrInstall b p s = .ok (r, t)) : ∃ bk, t = s.setBank b bk := by
  unfold lookupOrInstall at h
  split at h
  · obtain ⟨-, rfl | rfl⟩ := dmLookupOrInstall_ok h
    · exact ⟨_, (setBank_bank_eq _ b).symm⟩
    · exact ⟨_, rfl⟩
  · obtain ⟨-, -, rfl⟩ | ⟨-, -, -, rfl⟩ := faLookupOrInstall_ok h
    · exact ⟨_, (setBank_bank_eq _ b).symm⟩
    · exact ⟨_, rfl⟩

/-- What an access that has passed its checks does when it completes. -/
theorem performAccess_next {k : AccessKind} {a : Addr} {s t : State}
    (h : performAccess k a s = .next t) :
    ∃ r bk, lookupOrInstall (bankOf s.cfg.org k) (decodeAddress a s.fields) s
        = .ok (r, s.setBank (bankOf s.cfg.org k) bk) ∧
      t = respond r k (decodeAddress a s.fields)
        (recordOutcome r (s.setBank (bankOf s.cfg.org k) bk)) := by
  unfold performAccess process at h
  cases hl : lookupOrInstall (bankOf s.cfg.org k) (decodeAddress a s.fields) s with
  | error f => simp [hl] at h
  | ok rt =>
    obtain ⟨r, u⟩ := rt
    obtain ⟨bk, rfl⟩ := lookupOrInstall_ok hl
    simp only [hl] at h
    exact ⟨r, bk, rfl, by simpa using h.symm⟩

/-- Everything an ACCESS can do when it answers a next state (R88, R105). -/
theorem accessCommand_next {k : AccessKind} {a : Addr} {w : CmdWord} {s t : State}
    (h : accessCommand k a w s = .next t) :
    (s.phase = .faulted ∧ t = s) ∨
    (s.phase = .unconfigured ∧ t = raiseError .notConfigured w s) ∨
    (s.phase = .ended ∧ t = raiseError .traceEnded w s) ∨
    (s.phase = .running ∧ s.stats.accesses = counterMax ∧ t = raiseError .counterOverflow w s) ∨
    (s.phase = .running ∧ s.stats.accesses ≠ counterMax ∧ performAccess k a s = .next t) := by
  unfold accessCommand at h
  split at h
  · next hp => cases h; exact .inl ⟨hp, rfl⟩
  · next hp => cases h; exact .inr (.inl ⟨hp, rfl⟩)
  · next hp => cases h; exact .inr (.inr (.inl ⟨hp, rfl⟩))
  · next hp =>
    split at h
    · next ho => cases h; exact .inr (.inr (.inr (.inl ⟨hp, ho, rfl⟩)))
    · next ho => exact .inr (.inr (.inr (.inr ⟨hp, ho, h⟩)))

/-! ### The control commands (R97, R99, R100) -/

/-- `compute_fields` of a length whose index bits fit (R63). -/
theorem computeFields_of_le {L : Nat} {m : Mapping} (h : indexBitsOf L m ≤ 26) :
    computeFields L m =
      .ok { offsetBits := 6, indexBits := BitVec.ofNat 6 (indexBitsOf L m),
            tagBits := BitVec.ofNat 6 (26 - indexBitsOf L m) } := by
  have h6 : offsetBitsFixed + indexBitsOf L m ≤ addrWidth := by
    simp only [offsetBitsFixed, addrWidth]; omega
  simp only [computeFields, if_pos h6]
  rfl

/-- The writes of a CONFIGURE that completes, and its whole frame (R97). -/
theorem performConfigure_next {size : BitVec 16} {m : Mapping} {o : Organization} {s t : State}
    (h : performConfigure size m o s = .next t) :
    ∃ f, computeFields (bankLengthOf size o) m = .ok f ∧
      t = { allocateBanks (bankCountOf o) (bankLengthOf size o) s with
            cfg := { size := size, mapping := m, org := o }
            nBanks := BitVec.ofNat 2 (bankCountOf o)
            bankLength := BitVec.ofNat 7 (bankLengthOf size o)
            fields := f
            stats := Statistics.zero
            phase := .running } := by
  unfold performConfigure at h
  cases hf : computeFields (bankLengthOf size o) m with
  | error e => simp [hf] at h
  | ok f => exact ⟨f, rfl, by simpa [hf] using h.symm⟩

/-- Everything CONFIGURE can do when it answers a next state (R97, R105). -/
theorem execConfigure_next {size : BitVec 16} {m : Mapping} {o : Organization} {rsv : BitVec 14}
    {s t : State} (h : execConfigure size m o rsv s = .next t) :
    (s.phase = .faulted ∧ t = s) ∨
    ((s.phase = .running ∨ s.phase = .ended) ∧
      t = raiseError .alreadyConfigured (encode (.configure size m o rsv)) s) ∨
    (s.phase = .unconfigured ∧ configValid size rsv = false ∧
      t = raiseError .configError (encode (.configure size m o rsv)) s) ∨
    (s.phase = .unconfigured ∧ configValid size rsv = true ∧
      s.params.maxBlocks < bankCountOf o * bankLengthOf size o ∧
      t = raiseError .allocationError (encode (.configure size m o rsv)) s) ∨
    (s.phase = .unconfigured ∧ configValid size rsv = true ∧
      bankCountOf o * bankLengthOf size o ≤ s.params.maxBlocks ∧
      performConfigure size m o s = .next t) := by
  unfold execConfigure configureUnconfigured at h
  split at h
  · next hp => cases h; exact .inl ⟨hp, rfl⟩
  · next hp => cases h; exact .inr (.inl ⟨.inl hp, rfl⟩)
  · next hp => cases h; exact .inr (.inl ⟨.inr hp, rfl⟩)
  · next hp =>
    split at h
    · next hv => cases h; exact .inr (.inr (.inl ⟨hp, hv, rfl⟩))
    · next hv =>
      have hv' : configValid size rsv = true := by simpa using hv
      split at h
      · next hc => cases h; exact .inr (.inr (.inr (.inl ⟨hp, hv', hc, rfl⟩)))
      · next hc => exact .inr (.inr (.inr (.inr ⟨hp, hv', by omega, h⟩)))

/-- Everything END_TRACE can do (R99, R105). -/
theorem execEndTrace_next {z : BitVec 32} {s t : State} (h : execEndTrace z s = .next t) :
    (s.phase = .faulted ∧ t = s) ∨
    (s.phase = .unconfigured ∧ t = raiseError .notConfigured (encode (.endTrace z)) s) ∨
    (s.phase = .ended ∧ t = raiseError .traceEnded (encode (.endTrace z)) s) ∨
    (s.phase = .running ∧ z = 0 ∧ t = { s with phase := .ended }) ∨
    (s.phase = .running ∧ z ≠ 0 ∧ t = raiseError .illegalCommand (encode (.endTrace z)) s) := by
  unfold execEndTrace at h
  split at h
  · next hp => cases h; exact .inl ⟨hp, rfl⟩
  · next hp => cases h; exact .inr (.inl ⟨hp, rfl⟩)
  · next hp => cases h; exact .inr (.inr (.inl ⟨hp, rfl⟩))
  · next hp =>
    split at h
    · next hz => cases h; exact .inr (.inr (.inr (.inl ⟨hp, hz, rfl⟩)))
    · next hz => cases h; exact .inr (.inr (.inr (.inr ⟨hp, hz, rfl⟩)))

/-- Everything a reserved opcode does (R100). -/
theorem reservedCommand_eq (w : CmdWord) (s : State) :
    reservedCommand w s =
      if s.phase = .faulted then .next s else .next (raiseError .illegalCommand w s) := by
  unfold reservedCommand
  split <;> simp_all

/-! ### The step (R45) -/

/-- Everything a step can do when it answers a next state. -/
theorem step_next {s t : State} (h : step s = .next t) :
    (s.inputs = [] ∧ t = s) ∨
    (∃ p rest, s.inputs = p :: rest ∧ p.rst = true ∧ t = applyReset { s with inputs := rest }) ∨
    (∃ p rest, s.inputs = p :: rest ∧ p.rst = false ∧ p.cmdValid = true ∧
      exec (decodeCmd p.cmd) { s with inputs := rest } = .next t) ∨
    (∃ p rest, s.inputs = p :: rest ∧ p.rst = false ∧ p.cmdValid = false ∧
      t = { s with inputs := rest }) := by
  unfold step at h
  split at h
  · next hi => cases h; exact .inl ⟨hi, rfl⟩
  · next p rest hi =>
    unfold takeSample at h
    split at h
    · next hr => cases h; exact .inr (.inl ⟨p, rest, hi, hr, rfl⟩)
    · next hr =>
      have hr' : p.rst = false := by simpa using hr
      split at h
      · next hv => exact .inr (.inr (.inl ⟨p, rest, hi, hr', hv, h⟩))
      · next hv =>
        have hv' : p.cmdValid = false := by simpa using hv
        cases h; exact .inr (.inr (.inr ⟨p, rest, hi, hr', hv', rfl⟩))

/-! ### The output ports (R44, R123) -/

@[simp] theorem rstAsserted_with_nil (s : State) :
    ({ s with inputs := [] } : State).rstAsserted = false := rfl

@[simp] theorem rstAsserted_with_cons (s : State) (p : PortSample) (rest : List PortSample) :
    ({ s with inputs := p :: rest } : State).rstAsserted = p.rst := rfl

theorem rstAsserted_iff (s : State) :
    s.rstAsserted = true ↔ ∃ p rest, s.inputs = p :: rest ∧ p.rst = true := by
  unfold State.rstAsserted
  split <;> simp_all

/-- Outside reset the block is ready and a read shows what the state drives. -/
@[simp] theorem outputs_of_ready {s : State} (h : s.rstAsserted = false) :
    s.outputs = { cmdReady := 1, read := some s.portValues } := by
  simp [State.outputs, h]

/-- In reset the block is not ready and a read has no defined value. -/
@[simp] theorem outputs_of_reset {s : State} (h : s.rstAsserted = true) :
    s.outputs = Outputs.notReady := by
  simp [State.outputs, h]

@[simp] theorem notReady_cmdReady : Outputs.notReady.cmdReady = 0 := rfl
@[simp] theorem notReady_read : Outputs.notReady.read = none := rfl

/-- The ports do not show the host's coming samples or the build's parameters. -/
@[simp] theorem portValues_with_inputs (s : State) (ins : List PortSample) :
    ({ s with inputs := ins } : State).portValues = s.portValues := rfl

/-- A command that changes no port leaves one value to be seen. -/
theorem oldOrNew_self_iff (v seen : PortValues) : PortValues.OldOrNew v v seen ↔ seen = v := by
  constructor
  · rintro ⟨h1, h2, h3, h4, h5, h6, h7, h8, h9, h10, h11, h12, h13, h14⟩
    cases seen; cases v
    simp_all
  · rintro rfl
    exact ⟨.inl rfl, .inl rfl, .inl rfl, .inl rfl, .inl rfl, .inl rfl, .inl rfl, .inl rfl, .inl rfl,
      .inl rfl, .inl rfl, .inl rfl, .inl rfl, .inl rfl⟩

end Sys2Proof.Machine
end

