-- ==== Sys2Proof/Laws/PerInstr.lean ====
section
/-! SUPPORT. The family of per-instruction statements: the encoder puts every command's opcode and payload
into the two fields of the frame (spec 30_encoding.md R46). -/

namespace Sys2Proof.Laws

/-- The frame `{op, payload}` read back: its high field. -/
theorem opField_append (op : Opcode) (p : Payload) : opField (op ++ p) = op := by
  apply BitVec.eq_of_toNat_eq
  have h := p.isLt
  have hop := op.isLt
  simp only [opField, BitVec.extractLsb'_toNat, BitVec.toNat_append]
  rw [← Nat.shiftLeft_add_eq_or_of_lt h]
  omega

/-- The frame `{op, payload}` read back: its low field. -/
theorem payloadField_append (op : Opcode) (p : Payload) : payloadField (op ++ p) = p := by
  apply BitVec.eq_of_toNat_eq
  have h := p.isLt
  simp only [payloadField, BitVec.extractLsb'_toNat, BitVec.toNat_append]
  rw [← Nat.shiftLeft_add_eq_or_of_lt h]
  omega

end Sys2Proof.Laws

namespace Sys2Proof.Laws.EncodedFields

/-- The command's word holds its opcode in bits 35:32 and its payload in bits 31:0. -/
def Statement (i : Instr) : Prop :=
  opField (encode i) = i.opcode ∧ payloadField (encode i) = i.payload

theorem of_frame (i : Instr) : Statement i :=
  ⟨opField_append i.opcode i.payload, payloadField_append i.opcode i.payload⟩

theorem configure (size : BitVec 16) (map : Mapping) (org : Organization) (rsv : BitVec 14) :
    Statement (.configure size map org rsv) := of_frame _

theorem accessI (addr : Addr) : Statement (.accessI addr) := of_frame _

theorem accessD (addr : Addr) : Statement (.accessD addr) := of_frame _

theorem endTrace (z : BitVec 32) : Statement (.endTrace z) := of_frame _

theorem reserved0 (payload : Payload) : Statement (.reserved0 payload) := of_frame _

theorem reserved5 (payload : Payload) : Statement (.reserved5 payload) := of_frame _

theorem reserved6 (payload : Payload) : Statement (.reserved6 payload) := of_frame _

theorem reserved7 (payload : Payload) : Statement (.reserved7 payload) := of_frame _

theorem reserved8 (payload : Payload) : Statement (.reserved8 payload) := of_frame _

theorem reserved9 (payload : Payload) : Statement (.reserved9 payload) := of_frame _

theorem reservedA (payload : Payload) : Statement (.reservedA payload) := of_frame _

theorem reservedB (payload : Payload) : Statement (.reservedB payload) := of_frame _

theorem reservedC (payload : Payload) : Statement (.reservedC payload) := of_frame _

theorem reservedD (payload : Payload) : Statement (.reservedD payload) := of_frame _

theorem reservedE (payload : Payload) : Statement (.reservedE payload) := of_frame _

theorem reservedF (payload : Payload) : Statement (.reservedF payload) := of_frame _

end Sys2Proof.Laws.EncodedFields
end

