-- ==== Sys2Proof/Tests/Slice0.lean ====
section
/-! SUPPORT. The model's own tests. Expected results are those of spec/95_test_vectors.md (L1, L2, L3) and
of the rules named, never the model's answer. Then, for every statement with hypotheses, concrete states
and operands that meet them, clause by clause. -/

namespace Sys2Proof.Tests

open Sys2Proof Sys2Proof.Machine

/-! ### Helpers: small states -/

/-- The next state of an outcome, if it is one. -/
def stateOf : Host.Outcome State Fault Refusal → Option State
  | .next t => some t
  | .fault _ => none
  | .refused _ => none

/-- A fresh running machine, its registers written out from the table of R70. -/
def fresh (size : BitVec 16) (map : Mapping) (org : Organization) (nb : BitVec 2) (L : BitVec 7)
    (ib tb : BitVec 6) : State :=
  { State.reset with
    phase := .running
    cfg := { size := size, mapping := map, org := org }
    nBanks := nb
    bankLength := L
    fields := { offsetBits := 6, indexBits := ib, tagBits := tb } }

/-- DM 128 Unified: L = 2, fields (6, 1, 25). -/
def dm128 : State := fresh 128 .directMapped .unified 1 2 1 25

/-- DM 128 Split: two banks of L = 1, fields (6, 0, 26). -/
def dm128s : State := fresh 128 .directMapped .split 2 1 0 26

/-- DM 4096 Unified: L = 64, fields (6, 6, 20). -/
def dm4096 : State := fresh 4096 .directMapped .unified 1 64 6 20

/-- FA 128 Unified: L = 2, fields (6, 0, 26). -/
def fa128 : State := fresh 128 .fullyAssociative .unified 1 2 0 26

/-- FA 4096 Split: two banks of L = 32, fields (6, 0, 26). -/
def fa4096s : State := fresh 4096 .fullyAssociative .split 2 32 0 26

/-- A bank whose first slots hold the tags given. -/
def bankOfTags (tags : List Tag) (start end_ : BitVec 6) (isFull : Bool) : Bank :=
  { slots := Vector.ofFn fun (i : Fin slotsPerBank) =>
      match tags[i.val]? with
      | some t => { tag := t, valid := true }
      | none => CacheBlock.empty
    start := start
    end_ := end_
    isFull := isFull }

/-- `s` with the counters given, after some access. -/
def counted (s : State) (accesses hits evicts : Counter) : State :=
  { s with
    stats := { accesses := accesses, hits := hits, evicts := evicts }
    resp := { Response.reset with valid := true } }

/-- DM 128 Unified with tags 0 and 1 in slots 0 and 1. -/
def dm128two : State := counted { dm128 with bank0 := bankOfTags [0, 1] 0 0 false } 2 0 0

/-- FA 128 Unified, full, holding tags 4 (oldest) and 0x400: the ring of R80's example. -/
def fa128full : State := counted { fa128 with bank0 := bankOfTags [0x400, 4] 1 1 true } 3 0 1

/-- A running machine whose access counter is at its end (L2.6 row 24). -/
def atCounterEnd : State :=
  { dm128two with stats := { accesses := counterMax, hits := counterMax - 2, evicts := 0 } }

/-- A faulted machine (P6). -/
def faultedState : State :=
  { dm128two with phase := .faulted, errCode := 7, errCmd := 0x200000040 }

/-- What a test looks at after one command: phase, error code, counters. -/
def summary (i : Instr) (s : State) : Option (Phase × Nat × Nat × Nat × Nat) :=
  (stateOf (exec i s)).map fun t =>
    (t.phase, t.errCode.toNat, t.stats.accesses.toNat, t.stats.hits.toNat, t.stats.evicts.toNat)

/-- What a test looks at after one access: hit, evict, and the decoded fields. -/
def response (i : Instr) (s : State) : Option (Bool × Bool × AccessKind × Nat × Nat × Nat) :=
  (stateOf (exec i s)).map fun t =>
    (t.resp.hit, t.resp.evict, t.resp.kind, t.resp.offset.toNat, t.resp.index.toNat,
      t.resp.tag.toNat)

/-! ### Well-formedness: each check refuses its ill-formed term -/

theorem test_wellFormed_accepts :
    (Instr.configure 128 .directMapped .split 0).wellFormed = true ∧
    (Instr.accessI 0).wellFormed = true ∧ (Instr.endTrace 0).wellFormed = true := by decide

theorem test_wellFormed_refuses_rsv :
    (Instr.configure 128 .directMapped .unified 1).reservedBitsZero = false ∧
    (Instr.configure 128 .directMapped .unified 1).wellFormed = false := by decide

theorem test_wellFormed_refuses_z :
    (Instr.endTrace 1).reservedBitsZero = false ∧ (Instr.endTrace 1).wellFormed = false := by decide

theorem test_wellFormed_refuses_size :
    (Instr.configure 100 .directMapped .unified 0).sizeLegal = false ∧
    (Instr.configure 100 .directMapped .unified 0).wellFormed = false := by decide

theorem test_wellFormed_refuses_opcode :
    (Instr.reserved0 0).opcodeAssigned = false ∧ (Instr.reservedF 0).wellFormed = false := by decide

/-! ### Decoding: every constructor from a word written bit by bit from R47 to R51 -/

/-- rsv = 1, org = 1, map = 1, size = 128. -/
theorem test_decode_configure :
    decodeCmd 0b0001_00000000000001_1_1_0000000010000000#36
      = .configure 128 .fullyAssociative .split 1 := by decide

/-- The one-bit fields are not swapped: map is bit 16, org is bit 17. -/
theorem test_decode_configure_map_org :
    decodeCmd 0b0001_00000000000000_0_1_0000100000000000#36
      = .configure 2048 .fullyAssociative .unified 0 := by decide

theorem test_decode_accessI :
    decodeCmd 0b0010_10000000000000000000000000000001#36 = .accessI 0x80000001 := by decide

theorem test_decode_accessD :
    decodeCmd 0b0011_10000000000000000000000000000001#36 = .accessD 0x80000001 := by decide

theorem test_decode_endTrace :
    decodeCmd 0b0100_10000000000000000000000000000001#36 = .endTrace 0x80000001 := by decide

theorem test_decode_reserved_low :
    decodeCmd 0b0000_00000000000000000000000000000001#36 = .reserved0 1 ∧
    decodeCmd 0b0101_00000000000000000000000000000001#36 = .reserved5 1 ∧
    decodeCmd 0b0110_00000000000000000000000000000001#36 = .reserved6 1 ∧
    decodeCmd 0b0111_00000000000000000000000000000001#36 = .reserved7 1 ∧
    decodeCmd 0b1000_00000000000000000000000000000001#36 = .reserved8 1 ∧
    decodeCmd 0b1001_00000000000000000000000000000001#36 = .reserved9 1 := by decide

theorem test_decode_reserved_high :
    decodeCmd 0b1010_00000000000000000000000000000001#36 = .reservedA 1 ∧
    decodeCmd 0b1011_00000000000000000000000000000001#36 = .reservedB 1 ∧
    decodeCmd 0b1100_00000000000000000000000000000001#36 = .reservedC 1 ∧
    decodeCmd 0b1101_00000000000000000000000000000001#36 = .reservedD 1 ∧
    decodeCmd 0b1110_00000000000000000000000000000001#36 = .reservedE 1 ∧
    decodeCmd 0b1111_00000000000000000000000000000001#36 = .reservedF 1 := by decide

/-- R58's words. -/
theorem test_encode :
    encode (.configure 4096 .fullyAssociative .split 0) = 0x100031000#36 ∧
    encode (.accessD 0x8cda3fa8) = 0x38CDA3FA8#36 ∧ encode (.endTrace 0) = 0x400000000#36 := by
  decide

theorem test_decodeTableWord :
    decodeTableWord 40 0x2_00000000 = some (.accessI 0) ∧
    decodeTableWord 40 0x10_00000000 = none := by decide

theorem test_decodeNat_rejects_by_name :
    decodeNat 40 0x10_00000000 = .error .notA36BitWord := by decide

/-- The word placed is the one run, from reset (L2.6 rows 1 and 14). -/
theorem test_withFetchWord_runs :
    (stateOf (step (State.reset.withFetchWord 40 0x1_00000080))).map (fun t => t.phase)
      = some .running ∧
    (stateOf (step (State.reset.withFetchWord 40 0x2_00000000))).map (fun t => t.errCode.toNat)
      = some 5 := by decide

/-! ### CONFIGURE (L2.6) -/

/-- Row 2. -/
theorem test_configure_4096_fa_split :
    (stateOf (exec (.configure 4096 .fullyAssociative .split 0) State.reset)).map (fun t =>
      (t.phase, t.nBanks.toNat, t.bankLength.toNat, t.fields.offsetBits.toNat,
        t.fields.indexBits.toNat, t.fields.tagBits.toNat))
      = some (.running, 2, 32, 6, 0, 26) := by decide

/-- Row 8: with MAX_BLOCKS = 32 a bank of 64 does not fit. -/
theorem test_configure_allocation_error :
    summary (.configure 4096 .directMapped .unified 0)
      { State.reset with params := { maxBlocks := 32 } } = some (.faulted, 2, 0, 0, 0) := by decide

/-! ### ACCESS_I and ACCESS_D -/

/-- L2.5, the response vector; P1 and L1.6 decode the same address. -/
theorem test_accessD_dm4096_response :
    response (.accessD 0x8CDA3FA8) dm4096
      = some (false, false, .data, 0x28, 0x3E, 0x8CDA3) := by decide

/-- R80's example and L2.4.3: on a full ring tag 0 misses, and the oldest entry, tag 4, is evicted. -/
theorem test_accessD_fa_evicts_oldest :
    (stateOf (exec (.accessD 0) fa128full)).map (fun t =>
      (t.resp.hit, t.resp.evict, t.bank0.residentTags 2, t.bank0.start.toNat, t.bank0.isFull))
      = some (false, true, [0x400, 0], 0, true) := by decide

/-- L2.3 vector 1: tag 0 misses on an invalid slot that holds tag 0. -/
theorem test_accessI_compulsory_miss_on_tag_zero :
    summary (.accessI 0) dm128 = some (.running, 0, 1, 0, 0) := by decide

/-- L2.3 vector 4: a conflict miss evicts. -/
theorem test_accessI_conflict_miss :
    response (.accessI 0x80) dm128two = some (false, true, .instruction, 0, 0, 1) := by decide

/-! ### END_TRACE and the reserved opcodes (L2.6) -/

/-- Row 25: the overflow check applies to ACCESS only. -/
theorem test_endTrace_at_counter_end :
    (stateOf (exec (.endTrace 0) atCounterEnd)).map (fun t => t.phase) = some .ended := by decide

/-- Row 19: the phase check comes first. -/
theorem test_endTrace_phase_first :
    summary (.endTrace 1) { dm128 with phase := .ended } = some (.faulted, 7, 0, 0, 0) := by decide

/-- Rows 22 and 23. -/
theorem test_reserved :
    summary (.reserved0 0) State.reset = some (.faulted, 4, 0, 0, 0) ∧
    (stateOf (exec (.reservedF 0xFFFFFFFF) dm128two)).map (fun t => t.errCmd)
      = some 0xFFFFFFFFF#36 := by decide

/-! ### The assembler (R58, R59) -/

theorem test_assembler_refuses_large_size :
    assembleLine "CONFIGURE 65536, DM, UNIFIED".toList = .error .sizeDoesNotFit := by decide

theorem test_assembler_case_and_pseudo :
    assembleLine "access_d 8CDA3fa8".toList = .ok (.accessD 0x8cda3fa8) ∧
    assembleTrace ["I 0".toList, "D ff".toList] = .ok [.accessI 0, .accessD 0xFF, .endTrace 0] := by
  decide

/-! ### Witnesses: states and operands that meet each statement's hypotheses -/

theorem witness_dm128_inv : dm128.Inv ∧ dm128.CanAccess ∧ dm128.MissesAccounted := by decide

theorem witness_dm128two_inv : dm128two.Inv ∧ dm128two.CanAccess ∧ dm128two.MissesAccounted := by
  decide

theorem witness_dm4096_inv : dm4096.Inv ∧ dm4096.CanAccess := by decide

theorem witness_fa128_inv : fa128.Inv ∧ fa128.CanAccess ∧ fa128.MissesAccounted := by decide

theorem witness_fa128full_inv : fa128full.Inv ∧ fa128full.CanAccess ∧ fa128full.MissesAccounted := by
  decide

theorem witness_fa4096s_inv : fa4096s.Inv ∧ fa4096s.CanAccess := by decide

theorem witness_dm128s_inv : dm128s.Inv ∧ dm128s.CanAccess ∧ dm128s.bankLength = 1 := by decide

theorem witness_faultedState_inv : faultedState.Inv := by decide

theorem witness_atCounterEnd :
    atCounterEnd.Inv ∧ atCounterEnd.phase = .running ∧
    atCounterEnd.stats.accesses.toNat = 2 ^ 64 - 1 ∧ ¬ atCounterEnd.CanAccess := by decide

/-- TableWordDecodesExactlyIfItFits: the largest word that fits, and the two first that do not. -/
theorem witness_table_word :
    (0xFFFFFFFFF < 2 ^ 36 ∧ 0xFFFFFFFFF < 2 ^ 40) ∧ 2 ^ 36 ≤ 0x1000000000 ∧ 2 ^ 8 ≤ 0x100 := by
  decide

/-- StepRunsTheOfferedCommand and FaultRecordsTheOfferedWord. -/
theorem witness_offered :
    ∃ s t : State, s.inputs = offerCommand (encode (.reserved5 7)) :: [] ∧ s.phase ≠ .faulted ∧
      step s = .next t ∧ t.phase = .faulted :=
  ⟨{ State.reset with inputs := [offerCommand (encode (.reserved5 7))] }, _, rfl, by decide, rfl, rfl⟩

/-- FetchWordIsRunNext. -/
theorem witness_fetch : decodeTableWord 40 0x4_00000000 = some (.endTrace 0) := by decide

/-- IdleHoldsAllState and ResetFromAnyState: the three kinds of sample, the last with a command offered
while `rst` is 1. -/
theorem witness_samples :
    State.reset.inputs = [] ∧
    ({ dm128 with inputs := [offerNothing] } : State).inputs = offerNothing :: [] ∧
    offerNothing.rst = false ∧ offerNothing.cmdValid = false ∧
    ({ faultedState with inputs := [⟨true, true, 0x200000000⟩] } : State).inputs
      = ⟨true, true, 0x200000000⟩ :: [] := by decide

/-- CommandsDoNotSeeLaterInputs. -/
theorem witness_commands_next : ∃ t, exec (.accessI 0x40) dm128two = .next t := ⟨_, rfl⟩

/-- FaultsArePrecise. -/
theorem witness_fault :
    ∃ t, dm128two.phase ≠ .faulted ∧
      exec (.configure 128 .directMapped .unified 0) dm128two = .next t ∧ t.phase = .faulted :=
  ⟨_, by decide, rfl, rfl⟩

/-- FaultedIgnoresEveryCommand: no sample, an idle one and a command in FAULTED. -/
theorem witness_faulted :
    faultedState.phase = .faulted ∧ faultedState.rstAsserted = false ∧
    ({ faultedState with inputs := [offerNothing] } : State).rstAsserted = false ∧
    ({ faultedState with inputs := [offerCommand 0x100000080] } : State).rstAsserted = false := by
  decide

/-- ConfigureErrorsInOrder: the three clauses; L2.6 rows 7, 4, 5 and 8. -/
theorem witness_configure_errors :
    dm128.phase = .running ∧ State.reset.phase = .unconfigured ∧
    (1 : BitVec 14) ≠ 0 ∧ (64 : BitVec 16) ∉ legalSizes ∧ (8192 : BitVec 16) ∉ legalSizes ∧
    (4096 : BitVec 16) ∈ legalSizes ∧ 32 < (4096 : BitVec 16).toNat / 64 := by decide

/-- DefaultCapacityAlwaysSuffices: the largest configuration at the default capacity. -/
theorem witness_default_capacity :
    ∃ t, 64 ≤ State.reset.params.maxBlocks ∧ State.reset.errCode ≠ 2 ∧
      exec (.configure 4096 .directMapped .unified 0) State.reset = .next t :=
  ⟨_, by decide, by decide, rfl⟩

/-- AccessErrorsInOrder and EndTraceMeaning: the phases; the counter's end is `witness_atCounterEnd`. -/
theorem witness_phases :
    State.reset.phase = .unconfigured ∧ ({ dm128 with phase := .ended } : State).phase = .ended ∧
    dm128.phase = .running ∧ (0 : BitVec 32) = 0 ∧ (1 : BitVec 32) ≠ 0 ∧
    faultedState.phase = .faulted := by decide

/-- ReservedOpcodesRaiseIllegalCommand: the first and the last opcode, both clauses. -/
theorem witness_reserved :
    Instr.reserved0 0 ∈ reservedInstrs 0 ∧ Instr.reservedF 5 ∈ reservedInstrs 5 ∧
    State.reset.phase ≠ .faulted ∧ faultedState.phase = .faulted := by decide

/-- ConfigValidAcceptsSixSizes: the last clause, at both ends. -/
theorem witness_configValid : configValid 128 0 = true ∧ configValid 4096 0 = true := by decide

/-- ConfigureStartsTheRun and WellFormedRunSucceeds: both ends of the sizes. -/
theorem witness_configure :
    State.reset.phase = .unconfigured ∧
    (128 : BitVec 16) ∈ legalSizes ∧ (128 : BitVec 16).toNat / 64 ≤ State.reset.params.maxBlocks ∧
    (4096 : BitVec 16) ∈ legalSizes ∧ (4096 : BitVec 16).toNat / 64 ≤ State.reset.params.maxBlocks ∧
    ([] : List AccessRecord).length < 2 ^ 64 ∧
    [AccessRecord.mk .data 0].length < 2 ^ 64 := by decide

/-- CountSignificantBitsIsFloorLog: at 1, and at a number with a shift to make. -/
theorem witness_count : 1 ≤ 1 ∧ 1 ≤ 64 ∧ 0 < countSignificantBits 64 := by decide

/-- FieldWidthsSumTo32, first clause; the second is `witness_dm4096_inv`. -/
theorem witness_widths :
    ∃ t, State.reset.phase = .unconfigured ∧
      exec (.configure 4096 .directMapped .unified 0) State.reset = .next t ∧ t.phase = .running :=
  ⟨_, rfl, rfl, rfl⟩

/-- DecodedFieldsAndRanges and DecodeLosesNoAddressBit: both mappings. -/
theorem witness_decoded :
    (dm4096.Inv ∧ dm4096.phase = .running ∧ dm4096.cfg.mapping = .directMapped) ∧
    (fa4096s.Inv ∧ fa4096s.phase = .running ∧ fa4096s.cfg.mapping = .fullyAssociative) := by decide

/-- DirectMappedAccess: the three clauses, an invalid slot, a tag that matches, a tag that does not. -/
theorem witness_direct_mapped :
    dm128.cfg.mapping = .directMapped ∧
    ((dm128.bank (dm128.bankFor .instruction)).slot (dm128.indexOf 0)).valid = false ∧
    ((dm128two.bank (dm128two.bankFor .data)).slot (dm128two.indexOf 0xFF)).valid = true ∧
    ((dm128two.bank (dm128two.bankFor .data)).slot (dm128two.indexOf 0xFF)).tag.toNat
      = dm128two.tagOf 0xFF ∧
    ((dm128two.bank (dm128two.bankFor .data)).slot (dm128two.indexOf 0x7F)).tag.toNat
      ≠ dm128two.tagOf 0x7F := by decide

/-- DirectMappedConflictsAlternate. -/
theorem witness_conflicts :
    dm128.stats.accesses.toNat + 3 < 2 ^ 64 ∧ dm128.indexOf 0 = dm128.indexOf 0x80 ∧
    dm128.tagOf 0 ≠ dm128.tagOf 0x80 := by decide

/-- AssociativeAccess, RingRefinesFifo and SecondAccessHits: a resident tag, an absent one on a ring
with room, an absent one on a full ring. -/
theorem witness_associative :
    fa128full.cfg.mapping = .fullyAssociative ∧
    BitVec.ofNat 26 ((0x13F : Addr).toNat / 64)
      ∈ (fa128full.bank (fa128full.bankFor .data)).residentTags fa128full.bankLength.toNat ∧
    BitVec.ofNat 26 ((0 : Addr).toNat / 64)
      ∉ (fa128full.bank (fa128full.bankFor .data)).residentTags fa128full.bankLength.toNat ∧
    (fa128full.bank (fa128full.bankFor .data)).isFull = true ∧
    BitVec.ofNat 26 ((0 : Addr).toNat / 64)
      ∉ (fa128.bank (fa128.bankFor .data)).residentTags fa128.bankLength.toNat ∧
    (fa128.bank (fa128.bankFor .data)).isFull = false ∧
    fa128full.stats.accesses.toNat + 2 < 2 ^ 64 := by decide

/-- DirectMappedSlotsHoldTheLatestTag: two accesses to one index. -/
theorem witness_latest_tag :
    dm128.cfg.mapping = .directMapped ∧
    dm128.stats.accesses.toNat + [AccessRecord.mk .data 0, ⟨.data, 0x80⟩].length < 2 ^ 64 := by
  decide

/-- RingHoldsTheLastMissedTags. -/
theorem witness_last_missed :
    fa128.cfg.mapping = .fullyAssociative ∧ fa128.cfg.org = .unified ∧ fa128.bank0 = Bank.empty ∧
    fa128.stats.accesses.toNat + [AccessRecord.mk .data 0, ⟨.data, 0x80⟩].length < 2 ^ 64 := by
  decide

/-- EveryStepKeepsTheRingFillLaw: a ring with room, a full one, and a step of the latter. -/
theorem witness_fill_law :
    fa128.RingFillLaw ∧ fa128full.RingFillLaw ∧
    ∃ t, step { fa128full with inputs := [offerCommand 0x300000000] } = .next t :=
  ⟨by decide, by decide, ⟨_, rfl⟩⟩

/-- ResidentTagsAreIdempotent: three accesses to tags 4 and 0x400. -/
theorem witness_idempotent :
    fa128full.stats.accesses.toNat
      + [AccessRecord.mk .data 0x100, ⟨.data, 0x100⟩, ⟨.instruction, 0x1003F⟩].length < 2 ^ 64 ∧
    ∀ r, r ∈ [AccessRecord.mk .data 0x100, ⟨.data, 0x100⟩, ⟨.instruction, 0x1003F⟩] →
      BitVec.ofNat 26 (r.address.toNat / 64)
        ∈ (fa128full.bank (fa128full.bankFor r.kind)).residentTags fa128full.bankLength.toNat := by
  decide

/-- A state that no run reaches (R85): an empty associative ring with a stale valid slot. -/
def staleSlot : State :=
  { fa128 with bank0 := { fa128.bank0 with slots := fa128.bank0.slots.set 1 ⟨5, true⟩ } }

/-- U9: on it, the scan and the compare of all slots differ. -/
theorem test_scan_and_compare_differ_on_stale_slot :
    ¬ staleSlot.Inv ∧ staleSlot.phase = .running ∧ staleSlot.cfg.mapping = .fullyAssociative ∧
    staleSlot.RegistersDerived ∧ BankId.bank0.number < staleSlot.nBanks.toNat ∧
    faContains .bank0 5 staleSlot = .ok false ∧ faContainsParallel .bank0 5 staleSlot = true :=
  ⟨by decide, rfl, rfl, by decide, by decide, rfl, by decide⟩

/-- ParallelCompareEqualsScan: a bank in use, and two slots read as one. -/
theorem witness_parallel :
    BankId.bank0.number < fa128full.nBanks.toNat ∧ BankId.bank1.number < fa4096s.nBanks.toNat ∧
    1 < fa128full.bankLength.toNat ∧
    (fa128full.bank .bank0).slot 1 = { tag := 4, valid := true } := by decide

/-- OneSlotBankIsARingOfOne: an access and a command that faults. -/
theorem witness_one_slot :
    dm128s.cfg.mapping = .directMapped ∧ (∃ t, exec (.accessD 0x40) dm128s = .next t) ∧
    (∃ t, exec (.endTrace 1) dm128s = .next t) := ⟨rfl, ⟨_, rfl⟩, ⟨_, rfl⟩⟩

/-- SplitBanksDoNotInteract. -/
theorem witness_split :
    dm128s.cfg.org = .split ∧ (∃ t, exec (.accessI 0x40) dm128s = .next t) ∧
    (∃ t, exec (.accessD 0x40) dm128s = .next t) := ⟨rfl, ⟨_, rfl⟩, ⟨_, rfl⟩⟩

/-- UnifiedSharesBankZero and OffsetTakesNoPart. -/
theorem witness_unified :
    ∃ t, dm128two.cfg.org = .unified ∧ dm128two.CanAccess ∧
      (0x40 : Addr).toNat / 64 = (0x7F : Addr).toNat / 64 ∧
      exec (.accessI 0x40) dm128two = .next t := ⟨_, rfl, by decide, by decide, rfl⟩

/-- CounterLaw and ResponseWrittenByCompletedAccessOnly: an access that completes, an access that
faults, a command that is no access, a CONFIGURE that completes and a reset. -/
theorem witness_counter_law :
    (∃ t, exec (accessOf .data 0x40) dm128two = .next t) ∧
    (∃ t, exec (.accessD 0x40) atCounterEnd = .next t ∧ ¬ atCounterEnd.CanAccess ∧
      atCounterEnd.phase ≠ .unconfigured) ∧
    (∃ t, exec (.endTrace 0) dm128two = .next t ∧ (∀ k a, Instr.endTrace 0 ≠ accessOf k a) ∧
      dm128two.phase ≠ .unconfigured) ∧
    (∃ t, exec (.configure 128 .directMapped .unified 0) State.reset = .next t ∧
      State.reset.phase = .unconfigured ∧ t.phase = .running) ∧
    (∃ t, ({ dm128two with inputs := [assertReset] } : State).rstAsserted = true ∧
      step { dm128two with inputs := [assertReset] } = .next t) :=
  ⟨⟨_, rfl⟩, ⟨_, rfl, by decide, by decide⟩,
    ⟨_, rfl, fun k _ => by cases k <;> simp [accessOf, AccessRecord.command], by decide⟩,
    ⟨_, rfl, rfl, rfl⟩, ⟨_, rfl, rfl⟩⟩

/-- CountersAreMonotonic, ValidAndFullStaySet, FirstErrorIsKept, ConfigurationWrittenOncePerReset and
the invariant's statements: a step of a machine whose invariant holds, and which is not being reset. -/
theorem witness_step :
    ∃ t, ({ fa128full with inputs := [offerCommand 0x300000000] } : State).Inv ∧
      ({ fa128full with inputs := [offerCommand 0x300000000] } : State).MissesAccounted ∧
      ({ fa128full with inputs := [offerCommand 0x300000000] } : State).NoReset ∧
      ({ fa128full with inputs := [offerCommand 0x300000000] } : State).phase ≠ .unconfigured ∧
      (fa128full.bank0.slot 1).valid = true ∧ fa128full.bank0.isFull = true ∧
      step { fa128full with inputs := [offerCommand 0x300000000] } = .next t ∧
      t.phase ≠ .faulted :=
  ⟨_, by decide, by decide, by decide, by decide, by decide, by decide, rfl, by decide⟩

/-- PhaseTransitions: a command accepted in each phase, and a reset. -/
theorem witness_transitions :
    (∃ t, step { State.reset with inputs := [offerCommand 0x100000080] } = .next t) ∧
    (∃ t, step { dm128 with inputs := [offerCommand 0x400000000] } = .next t) ∧
    (∃ t, step { dm128 with phase := .ended, inputs := [offerCommand 0x400000000] } = .next t) ∧
    (∃ t, step { faultedState with inputs := [offerCommand 0x400000000] } = .next t) ∧
    (∃ t, step { dm128 with inputs := [assertReset] } = .next t ∧
      ({ dm128 with inputs := [assertReset] } : State).rstAsserted = true) :=
  ⟨⟨_, rfl⟩, ⟨_, rfl⟩, ⟨_, rfl⟩, ⟨_, rfl⟩, ⟨_, rfl, rfl⟩⟩

/-- HitRateIsExactOrRefused: a machine with no access and one with some. -/
theorem witness_hitRate :
    dm128.portValues.statAccesses.toNat = 0 ∧ 0 < dm128two.portValues.statAccesses.toNat := by decide

/-- StatusOutputsShowTheState, ResponseOutputsShowTheState: a machine before its first access, and one
after. -/
theorem witness_ready : dm128.rstAsserted = false ∧ fa128full.rstAsserted = false := by decide

/-- OutputsDefinedOnlyWhileReady: a machine in each case, and a command in FAULTED with what is seen
meanwhile. -/
theorem witness_outputs :
    dm128.outputs.cmdReady = 1 ∧
    ({ dm128 with inputs := [assertReset] } : State).outputs.cmdReady = 0 ∧
    faultedState.phase = .faulted ∧
    ∃ t, exec (.accessI 0) faultedState = .next t ∧
      PortValues.OldOrNew faultedState.portValues t.portValues faultedState.portValues :=
  ⟨by decide, by decide, rfl, _, rfl, (oldOrNew_self_iff _ _).2 rfl⟩

/-- R45: END_TRACE in RUNNING changes `phase` on its port and no other. -/
theorem test_endTrace_ports :
    (stateOf (exec (.endTrace 0) dm128two)).map State.portValues
      = some { dm128two.portValues with phase := 2 } := by decide

/-- TraceExpandsLineByLine: no line, and two. -/
theorem witness_trace :
    assembleTrace [] = .ok [.endTrace 0] ∧
    assembleTrace ["D 0".toList, "I ffffffff".toList]
      = .ok [.accessD 0, .accessI 0xFFFFFFFF, .endTrace 0] := by decide

end Sys2Proof.Tests
end

section
/-! SUPPORT. The legal configurations and the decoded fields: what CONFIGURE's checks accept, the
registers it derives (spec 40_address_decoder.md R61 to R65, R98) and the fields of an address under
them (R56, R66 to R68). -/

namespace Sys2Proof.Machine

/-! ### Legal sizes -/

theorem mem_legalSizes_iff (size : BitVec 16) :
    size ∈ legalSizes ↔
      size = 128 ∨ size = 256 ∨ size = 512 ∨ size = 1024 ∨ size = 2048 ∨ size = 4096 := by
  simp [legalSizes]

/-- R98: `config_valid` accepts no reserved bit and no size but the six powers of two. -/
theorem legal_of_configValid {size : BitVec 16} {rsv : BitVec 14} (h : configValid size rsv = true) :
    rsv = 0 ∧ size ∈ legalSizes := by
  simp only [configValid, Bool.and_eq_true, beq_iff_eq, decide_eq_true_eq] at h
  obtain ⟨hrsv, hlo, hhi, hand⟩ := h
  refine ⟨hrsv, ?_⟩
  have hpred : (size - 1).toNat = size.toNat - 1 := by bv_omega
  have hpow : size.toNat &&& (size.toNat - 1) = 0 := by
    rw [← hpred, ← BitVec.toNat_and, hand]; rfl
  obtain ⟨n, hn⟩ := (Nat.and_sub_one_eq_zero_iff_isPowerOfTwo (by omega)).1 hpow
  have hn7 : 7 ≤ n := (Nat.pow_le_pow_iff_right (by decide : 1 < 2)).1 (by omega : 2 ^ 7 ≤ 2 ^ n)
  have hn12 : n ≤ 12 := (Nat.pow_le_pow_iff_right (by decide : 1 < 2)).1 (by omega : 2 ^ n ≤ 2 ^ 12)
  have hsize : size = BitVec.ofNat 16 (2 ^ n) := by rw [← hn, BitVec.ofNat_toNat, BitVec.setWidth_eq]
  subst hsize
  interval_cases n <;> decide

/-- R70: a legal size gives a bank length that is a power of two in 1..64. -/
theorem bankLengthOf_legal {size : BitVec 16} (h : size ∈ legalSizes) (o : Organization) :
    0 < bankLengthOf size o ∧ bankLengthOf size o ≤ 64 ∧
      2 ^ Nat.log2 (bankLengthOf size o) = bankLengthOf size o := by
  obtain rfl | rfl | rfl | rfl | rfl | rfl := (mem_legalSizes_iff size).1 h <;> cases o <;> decide

/-- R62, R63 on the legal bank lengths: the index bits of a direct mapping are their logarithm. -/
theorem indexBitsOf_legal {size : BitVec 16} (h : size ∈ legalSizes) (o : Organization) (m : Mapping) :
    indexBitsOf (bankLengthOf size o) m =
      (if m = .directMapped then Nat.log2 (bankLengthOf size o) else 0) := by
  obtain rfl | rfl | rfl | rfl | rfl | rfl := (mem_legalSizes_iff size).1 h <;>
    cases m <;> cases o <;> rfl

theorem indexBitsOf_legal_le {size : BitVec 16} (h : size ∈ legalSizes) (o : Organization)
    (m : Mapping) : indexBitsOf (bankLengthOf size o) m ≤ 6 := by
  obtain ⟨hpos, h64, -⟩ := bankLengthOf_legal h o
  rw [indexBitsOf_legal h]
  split
  · exact Nat.lt_succ_iff.1 ((Nat.log2_lt (by omega)).2 (by omega))
  · omega

/-! ### The derived registers -/

section
variable {s : State} (hr : s.RegistersDerived)
include hr

theorem bankLength_pos : 0 < s.bankLength.toNat := by
  obtain ⟨hsize, -, hL, -⟩ := hr
  exact hL ▸ (bankLengthOf_legal hsize _).1

theorem bankLength_le : s.bankLength.toNat ≤ 64 := by
  obtain ⟨hsize, -, hL, -⟩ := hr
  exact hL ▸ (bankLengthOf_legal hsize _).2.1

theorem two_pow_indexBits (hm : s.cfg.mapping = .directMapped) :
    2 ^ s.fields.indexBits.toNat = s.bankLength.toNat := by
  obtain ⟨hsize, -, hL, -, hib, -⟩ := hr
  rw [hib, if_pos hm, hL]
  exact (bankLengthOf_legal hsize _).2.2

/-- The bank of a kind is in use. -/
theorem bankFor_lt_nBanks (k : AccessKind) : (s.bankFor k).number < s.nBanks.toNat := by
  obtain ⟨-, hnb, -⟩ := hr
  rw [hnb]
  unfold State.bankFor
  cases s.cfg.org <;> cases k <;> decide

theorem inBank_bankFor (k : AccessKind) {i : Nat} (hi : i < s.bankLength.toNat) :
    s.inBank (s.bankFor k) i = true :=
  (inBank_iff s _ i).2 ⟨bankFor_lt_nBanks hr k, hi, Nat.lt_of_lt_of_le hi (bankLength_le hr)⟩

end

theorem bankOf_eq_bankFor (s : State) (k : AccessKind) : bankOf s.cfg.org k = s.bankFor k := by
  unfold State.bankFor
  cases s.cfg.org <;> cases k <;> rfl

/-! ### The decoded fields -/

theorem mask_toNat {n : Nat} (h : n ≤ 32) : (mask n).toNat = 2 ^ n - 1 := by
  have hle : 2 ^ n ≤ 2 ^ 32 := Nat.pow_le_pow_right (by decide) h
  have hpos : 0 < 2 ^ n := Nat.two_pow_pos n
  simp only [mask, BitVec.toNat_ofNat]
  omega

/-- A field of an address: shifted down and masked (R66). -/
theorem shift_mask_toNat (a : Addr) (k : Nat) {n : Nat} (h : n ≤ 32) :
    ((a >>> k) &&& mask n).toNat = a.toNat / 2 ^ k % 2 ^ n := by
  rw [BitVec.toNat_and, mask_toNat h, Nat.and_two_pow_sub_one_eq_mod, BitVec.toNat_ushiftRight,
    Nat.shiftRight_eq_div_pow]

section
variable {s : State} (hr : s.RegistersDerived) (a : Addr)
include hr

theorem decodeAddress_offset_toNat :
    (decodeAddress a s.fields).offset.toNat = a.toNat % 64 := by
  obtain ⟨-, -, -, hoff, -⟩ := hr
  simp only [decodeAddress, hoff, BitVec.toNat_and, mask_toNat (by omega : 6 ≤ 32)]
  exact Nat.and_two_pow_sub_one_eq_mod _ 6

theorem decodeAddress_index_toNat :
    (decodeAddress a s.fields).index.toNat = s.indexOf a := by
  obtain ⟨-, -, -, hoff, -, hsum, -⟩ := hr
  simp only [decodeAddress]
  rw [shift_mask_toNat a _ (by omega), hoff]
  rfl

theorem tagOf_lt : s.tagOf a < 2 ^ s.fields.tagBits.toNat := by
  obtain ⟨-, -, -, hoff, -, hsum, -⟩ := hr
  refine Nat.div_lt_of_lt_mul ?_
  rw [← Nat.pow_add, show 6 + s.fields.indexBits.toNat + s.fields.tagBits.toNat = 32 by omega]
  exact a.isLt

theorem decodeAddress_tag_toNat :
    (decodeAddress a s.fields).tag.toNat = s.tagOf a := by
  have hlt := tagOf_lt hr a
  obtain ⟨-, -, -, hoff, -, hsum, -⟩ := hr
  simp only [decodeAddress]
  rw [shift_mask_toNat a _ (by omega), hoff]
  exact Nat.mod_eq_of_lt hlt

theorem tagBits_le : s.fields.tagBits.toNat ≤ 26 := by
  obtain ⟨-, -, -, hoff, -, hsum, -⟩ := hr
  omega

/-- The tag register and the tag store hold the whole tag (R67). -/
theorem ofNat_tagOf_toNat : (BitVec.ofNat 26 (s.tagOf a)).toNat = s.tagOf a := by
  have hle : 2 ^ s.fields.tagBits.toNat ≤ 2 ^ 26 := Nat.pow_le_pow_right (by decide) (tagBits_le hr)
  exact Nat.mod_eq_of_lt (Nat.lt_of_lt_of_le (tagOf_lt hr a) hle)

theorem decodeAddress_tag26 :
    (decodeAddress a s.fields).tag26 = BitVec.ofNat 26 (s.tagOf a) := by
  rw [AddressParts.tag26, ← decodeAddress_tag_toNat hr a, BitVec.ofNat_toNat]

theorem indexOf_lt (hm : s.cfg.mapping = .directMapped) : s.indexOf a < s.bankLength.toNat := by
  rw [← two_pow_indexBits hr hm]
  exact Nat.mod_lt _ (Nat.two_pow_pos _)

end

/-- What `process` and `emit resp` leave of a state whose access went to bank `b`, by plain arithmetic
(R87, R94). -/
theorem respond_recordOutcome_eq {s : State} (hr : s.RegistersDerived) (k : AccessKind) (a : Addr)
    (b : BankId) (bk : Bank) (r : LookupResult) :
    respond r k (decodeAddress a s.fields) (recordOutcome r (s.setBank b bk)) =
      s.afterAccess k a b bk r := by
  have hoff : (decodeAddress a s.fields).offset.setWidth 6 = BitVec.ofNat 6 (a.toNat % 64) := by
    rw [← decodeAddress_offset_toNat hr a, BitVec.ofNat_toNat]
  have hidx : (decodeAddress a s.fields).index.setWidth 6 = BitVec.ofNat 6 (s.indexOf a) := by
    rw [← decodeAddress_index_toNat hr a, BitVec.ofNat_toNat]
  simp only [respond, decodeAddress_tag26 hr, hoff, hidx]
  obtain ⟨result, evicted⟩ := r
  cases b <;> cases result <;> cases evicted <;> rfl

end Sys2Proof.Machine
end

section
/-! SUPPORT. The two engines on a bank that satisfies its invariant (spec 41_direct_mapped_bank.md R71,
R72; 42_associative_bank.md R76 to R83): what one access does to the bank, and that it keeps the
invariant. -/

namespace Sys2Proof.Machine

/-! ### Counting valid slots -/

theorem slot_of_lt (bk : Bank) {i : Nat} (h : i < slotsPerBank) : bk.slot i = bk.slots[i] := by
  simp [Bank.slot, h]

/-- A slot outside the storage reads as an invalid one. -/
theorem slot_of_le (bk : Bank) {i : Nat} (h : slotsPerBank ≤ i) : bk.slot i = CacheBlock.empty := by
  simp [Bank.slot, h]

theorem validCount_writeSlot (bk : Bank) {i : Nat} (tag : Tag) (h : i < slotsPerBank) :
    (bk.writeSlot i { tag := tag, valid := true }).validCount =
      bk.validCount + (if (bk.slot i).valid = true then 0 else 1) := by
  have hset : bk.slots.setIfInBounds i { tag := tag, valid := true } =
      bk.slots.set i { tag := tag, valid := true } h := by
    ext j hj : 1; simp [Vector.getElem_set, Vector.getElem_setIfInBounds]
  have hpos : (bk.slot i).valid = true → 0 < bk.slots.countP fun blk => blk.valid := fun hv =>
    Vector.countP_pos_iff.2 ⟨bk.slots[i], Vector.getElem_mem h, slot_of_lt bk h ▸ hv⟩
  simp only [Bank.validCount, Bank.writeSlot, hset, Vector.countP_toList, Vector.countP_set,
    ← slot_of_lt bk h, if_true]
  split
  · next hv => have := hpos hv; omega
  · omega

/-! ### What one access does to its bank -/

/-- The bank `bk'` that an access with outcome `r` leaves of `bk`: a hit evicts nothing, a miss evicts
or makes one more slot valid (R74 (ii), R82 (iv)), and no valid bit and no full ring's flag is cleared
(R42, R72, R28 (v)). -/
structure Bank.AccessEffect (bk : Bank) (r : LookupResult) (bk' : Bank) : Prop where
  hit_evicts_nothing : r.result = .hit → r.evicted = false
  validCount_eq : bk'.validCount + (if r.evicted = true then 1 else 0) =
    bk.validCount + (if r.result = .hit then 0 else 1)
  valid_stays : ∀ j, (bk.slot j).valid = true → (bk'.slot j).valid = true
  full_stays : bk.isFull = true → bk'.isFull = true

/-- R71, R80: a hit mutates nothing. -/
theorem accessEffect_hit (bk : Bank) :
    bk.AccessEffect { result := .hit, evicted := false } bk where
  hit_evicts_nothing _ := rfl
  validCount_eq := rfl
  valid_stays _ h := h
  full_stays h := h

theorem valid_writeSlot (bk : Bank) {i j : Nat} (tag : Tag) (h : i < slotsPerBank) :
    ((bk.writeSlot i { tag := tag, valid := true }).slot j).valid = true ↔
      j = i ∨ (bk.slot j).valid = true := by
  by_cases hj : j = i
  · simp [hj, writeSlot_slot_self bk i _ h]
  · simp [hj, writeSlot_slot_of_ne bk i j _ hj]

/-- A miss that writes slot `i` evicts exactly when the slot was valid. -/
theorem accessEffect_miss {bk bk' : Bank} {i : Nat} {tag : Tag} (h : i < slotsPerBank)
    (hslots : bk'.slots = (bk.writeSlot i { tag := tag, valid := true }).slots)
    (hfull : bk.isFull = true → bk'.isFull = true) :
    bk.AccessEffect { result := .miss, evicted := (bk.slot i).valid } bk' where
  hit_evicts_nothing := nofun
  validCount_eq := by
    have hcount := validCount_writeSlot bk tag h
    rw [Bank.validCount, ← hslots, ← Bank.validCount] at hcount
    rw [hcount]
    cases (bk.slot i).valid <;> simp
  valid_stays j hj := by
    rw [Bank.slot, hslots]
    exact (valid_writeSlot bk tag h).2 (.inr hj)
  full_stays := hfull

/-! ### The invariant of a bank -/

theorem ok_directMapped {bk : Bank} {m : Mapping} {L tagBits : Nat} (hm : m = .directMapped) :
    bk.ok m L tagBits = true ↔ bk.DirectMappedOk L tagBits := by
  subst hm; exact decide_eq_true_iff

theorem ok_fullyAssociative {bk : Bank} {m : Mapping} {L tagBits : Nat}
    (hm : m = .fullyAssociative) : bk.ok m L tagBits = true ↔ bk.AssociativeOk L := by
  subst hm; exact decide_eq_true_iff

theorem directMappedOk_writeSlot {bk : Bank} {L tagBits i : Nat} {tag : Tag}
    (hb : bk.DirectMappedOk L tagBits) (hi : i < L) (h64 : L ≤ 64) (htag : tag.toNat < 2 ^ tagBits) :
    (bk.writeSlot i { tag := tag, valid := true }).DirectMappedOk L tagBits := by
  obtain ⟨hstart, hend, hfull, hvalid, hinvalid⟩ := hb
  refine ⟨hstart, hend, hfull, fun j hj hv => ?_, fun j hj hv => ?_⟩ <;> by_cases hji : j = i
  · rw [hji, writeSlot_slot_self bk i _ (Nat.lt_of_lt_of_le hi h64)]
    exact ⟨hi, htag⟩
  · rw [writeSlot_slot_of_ne bk i j _ hji] at hv ⊢
    exact hvalid j hj hv
  · rw [hji, writeSlot_slot_self bk i _ (Nat.lt_of_lt_of_le hi h64)] at hv
    cases hv
  · rw [writeSlot_slot_of_ne bk i j _ hji] at hv ⊢
    exact hinvalid j hj hv

/-! ### The ring, its resident slots a rotation of the first ones -/

/-- How many slots of a ring of length `L` are resident when its invariant holds: they are the first
ones (R28 (iv), R77). -/
def Bank.filled (bk : Bank) (L : Nat) : Nat := if bk.isFull then L else bk.end_.toNat

/-- The ring's invariant R28 with its resident slots counted from slot 0, not from the oldest. -/
structure Bank.RingOk (bk : Bank) (L : Nat) : Prop where
  start_lt : bk.start.toNat < L
  end_lt : bk.end_.toNat < L
  end_eq : bk.isFull = true → bk.end_ = bk.start
  start_zero : bk.isFull = false → bk.start = 0
  valid_iff : ∀ j, j < slotsPerBank → ((bk.slot j).valid = true ↔ j < bk.filled L)
  tags_distinct : ∀ i j, i < bk.filled L → j < bk.filled L → (bk.slot i).tag = (bk.slot j).tag → i = j
  tag_zero : ∀ j, j < slotsPerBank → (bk.slot j).valid = false → (bk.slot j).tag = 0

theorem filled_le {bk : Bank} {L : Nat} (hend : bk.end_.toNat < L) : bk.filled L ≤ L := by
  unfold Bank.filled
  split <;> omega

/-- The resident slots, in some order, are the first `filled` ones. -/
theorem residentSlots_perm {bk : Bank} {L : Nat} (hend : bk.end_.toNat < L)
    (hstart : bk.isFull = false → bk.start = 0) :
    (bk.residentSlots L).Perm (List.range (bk.filled L)) := by
  cases hf : bk.isFull with
  | true =>
    have hrot : bk.residentSlots L = (List.range L).rotate bk.start.toNat := by
      refine List.ext_getElem (by simp [Bank.residentSlots, Bank.occupancy, hf]) fun k hk hk' => ?_
      simp [Bank.residentSlots, Bank.slotIndex, List.getElem_rotate, Nat.add_comm]
    rw [hrot, Bank.filled, if_pos hf]
    exact List.rotate_perm _ _
  | false =>
    have hocc : bk.occupancy L = bk.end_.toNat := by
      have hmod : (bk.end_.toNat : Int) % L = bk.end_.toNat := Int.emod_eq_of_lt (by omega) (by omega)
      simp [Bank.occupancy, hf, hstart hf, ringMod, hmod]
    have hmap : bk.residentSlots L = List.range bk.end_.toNat := by
      rw [Bank.residentSlots, hocc]
      refine (List.map_congr_left fun k hk => ?_).trans (List.map_id _)
      have hk' := List.mem_range.1 hk
      simpa [Bank.slotIndex, hstart hf] using Nat.mod_eq_of_lt (by omega : k < L)
    rw [hmap, Bank.filled, if_neg (by simp [hf])]

theorem mem_residentSlots_iff {bk : Bank} {L : Nat} (hend : bk.end_.toNat < L)
    (hstart : bk.isFull = false → bk.start = 0) (j : Nat) :
    j ∈ bk.residentSlots L ↔ j < bk.filled L := by
  rw [(residentSlots_perm hend hstart).mem_iff, List.mem_range]

theorem nodup_residentTags_iff {bk : Bank} {L : Nat} (hend : bk.end_.toNat < L)
    (hstart : bk.isFull = false → bk.start = 0) :
    (bk.residentTags L).Nodup ↔
      ∀ i j, i < bk.filled L → j < bk.filled L → (bk.slot i).tag = (bk.slot j).tag → i = j := by
  rw [Bank.residentTags, ((residentSlots_perm hend hstart).map _).nodup_iff,
    List.nodup_map_iff_inj_on List.nodup_range]
  simp only [List.mem_range]
  exact ⟨fun h i j hi hj => h i hi j hj, fun h i hi j hj => h i j hi hj⟩

theorem associativeOk_iff_ringOk (bk : Bank) (L : Nat) : bk.AssociativeOk L ↔ bk.RingOk L := by
  constructor
  · rintro ⟨hs, he, hfull, hzero, hvalid, hnodup, htag⟩
    exact ⟨hs, he, hfull, hzero,
      fun j hj => (hvalid j hj).trans (mem_residentSlots_iff he hzero j),
      (nodup_residentTags_iff he hzero).1 hnodup, htag⟩
  · rintro ⟨hs, he, hfull, hzero, hvalid, hdistinct, htag⟩
    exact ⟨hs, he, hfull, hzero,
      fun j hj => (hvalid j hj).trans (mem_residentSlots_iff he hzero j).symm,
      (nodup_residentTags_iff he hzero).2 hdistinct, htag⟩

/-- An empty bank satisfies either mapping's invariant (R27, R28). -/
theorem empty_ok (m : Mapping) {L : Nat} (tagBits : Nat) (hL : 0 < L) :
    Bank.empty.ok m L tagBits = true := by
  cases m with
  | directMapped =>
    refine (ok_directMapped rfl).2 ⟨rfl, rfl, rfl, fun j _ hv => ?_, fun j _ _ => ?_⟩
    · simp [CacheBlock.empty] at hv
    · simp [CacheBlock.empty]
  | fullyAssociative =>
    refine (ok_fullyAssociative rfl).2 ((associativeOk_iff_ringOk _ _).2
      ⟨hL, hL, nofun, fun _ => rfl, fun j _ => ?_, fun i j hi => absurd hi (Nat.not_lt_zero i),
        fun j _ _ => ?_⟩)
    · exact iff_of_false (by simp [CacheBlock.empty]) (Nat.not_lt_zero j)
    · simp [CacheBlock.empty]

/-! ### One access to a ring -/

section
variable {bk : Bank} {L : Nat} (hb : bk.RingOk L) (tag : Tag)
include hb

theorem installed_of_full (hf : bk.isFull = true) :
    (bk.installed L tag).isFull = true ∧ (bk.installed L tag).start = (bk.installed L tag).end_ := by
  simp [Bank.installed, hf, hb.end_eq hf, ringFull]

variable (h64 : L ≤ 64)
include h64

/-- The slot an install writes is valid exactly in a full ring. -/
theorem ring_valid_end : (bk.slot bk.end_.toNat).valid = bk.isFull := by
  have hend := hb.end_lt
  have hiff := hb.valid_iff bk.end_.toNat (Nat.lt_of_lt_of_le hend h64)
  cases hf : bk.isFull <;> simp_all [Bank.filled]

theorem installed_end_toNat : (bk.installed L tag).end_.toNat = (bk.end_.toNat + 1) % L :=
  advanceCursor_toNat _ L (Nat.zero_lt_of_lt hb.end_lt) h64

/-- A ring that was not full becomes full exactly when its last slot is written. -/
theorem installed_of_not_full (hf : bk.isFull = false) :
    (bk.installed L tag).start = 0 ∧
      ((bk.installed L tag).isFull = true ↔ bk.end_.toNat + 1 = L) := by
  have hend := hb.end_lt
  have hstart := hb.start_zero hf
  refine ⟨by simp [Bank.installed, hf, hstart], ?_⟩
  have hfull : (bk.installed L tag).isFull = true ↔ (bk.installed L tag).end_.toNat = 0 := by
    simp [Bank.installed, hf, hstart, ringFull, BitVec.toNat_eq]
  rw [hfull, installed_end_toNat hb tag h64]
  rcases Nat.lt_or_ge (bk.end_.toNat + 1) L with hlt | hge
  · rw [Nat.mod_eq_of_lt hlt]; omega
  · have heq : bk.end_.toNat + 1 = L := by omega
    rw [heq, Nat.mod_self]; exact iff_of_true rfl rfl

/-- After an install the resident slots are those before it and the one written. -/
theorem lt_filled_installed_iff (j : Nat) :
    j < (bk.installed L tag).filled L ↔ j = bk.end_.toNat ∨ j < bk.filled L := by
  have hend := hb.end_lt
  have hcur := installed_end_toNat hb tag h64
  cases hf : bk.isFull with
  | true => simp only [Bank.filled, hf, (installed_of_full hb tag hf).1, if_true]; omega
  | false =>
    have hlast := (installed_of_not_full hb tag h64 hf).2
    cases hf' : (bk.installed L tag).isFull with
    | true => 
      simp only [hf', true_iff] at hlast
      simp only [Bank.filled, hf, hf', if_true, Bool.false_eq_true, if_false]
      omega
    | false =>
      simp only [hf', Bool.false_eq_true, false_iff] at hlast
      rw [Nat.mod_eq_of_lt (by omega)] at hcur
      simp only [Bank.filled, hf, hf', hcur, Bool.false_eq_true, if_false]
      omega

/-- R79, R82: the install of a tag that is not resident keeps the ring's invariant. -/
theorem ringOk_installed (habsent : ∀ j, j < bk.filled L → (bk.slot j).tag ≠ tag) :
    (bk.installed L tag).RingOk L := by
  have hL : 0 < L := Nat.zero_lt_of_lt hb.end_lt
  have hend64 : bk.end_.toNat < slotsPerBank := Nat.lt_of_lt_of_le hb.end_lt h64
  have hself : (bk.installed L tag).slot bk.end_.toNat = { tag := tag, valid := true } :=
    writeSlot_slot_self bk _ _ hend64
  have hother : ∀ j, j ≠ bk.end_.toNat → (bk.installed L tag).slot j = bk.slot j :=
    fun j hj => writeSlot_slot_of_ne bk _ j _ hj
  have hend_lt : (bk.installed L tag).end_.toNat < L := by
    rw [installed_end_toNat hb tag h64]; exact Nat.mod_lt _ hL
  have hend_eq : (bk.installed L tag).isFull = true →
      (bk.installed L tag).end_ = (bk.installed L tag).start := (ringFull_iff _ _).1
  have hstart_zero : (bk.installed L tag).isFull = false → (bk.installed L tag).start = 0 := by
    intro hf'
    cases hf : bk.isFull with
    | true => exact absurd ((installed_of_full hb tag hf).1) (by simp [hf'])
    | false => exact (installed_of_not_full hb tag h64 hf).1
  have hresident := lt_filled_installed_iff hb tag h64
  refine ⟨?_, hend_lt, hend_eq, hstart_zero, fun j hj => ?_, fun i j hi hj htags => ?_,
    fun j hj hv => ?_⟩
  · cases hf' : (bk.installed L tag).isFull with
    | true => exact hend_eq hf' ▸ hend_lt
    | false => exact (hstart_zero hf').symm ▸ hL
  · rw [hresident]
    exact (valid_writeSlot bk tag hend64).trans (or_congr_right (hb.valid_iff j hj))
  · by_cases hie : i = bk.end_.toNat <;> by_cases hje : j = bk.end_.toNat
    · exact hie.trans hje.symm
    · rw [hie, hself, hother j hje] at htags
      exact absurd htags.symm (habsent j (((hresident j).1 hj).resolve_left hje))
    · rw [hje, hself, hother i hie] at htags
      exact absurd htags (habsent i (((hresident i).1 hi).resolve_left hie))
    · rw [hother i hie, hother j hje] at htags
      exact hb.tags_distinct i j (((hresident i).1 hi).resolve_left hie)
        (((hresident j).1 hj).resolve_left hje) htags
  · by_cases hje : j = bk.end_.toNat
    · rw [hje, hself] at hv; cases hv
    · rw [hother j hje] at hv ⊢; exact hb.tag_zero j hj hv

theorem accessEffect_installed :
    bk.AccessEffect { result := .miss, evicted := bk.isFull } (bk.installed L tag) := by
  rw [← ring_valid_end hb h64]
  exact accessEffect_miss (Nat.lt_of_lt_of_le hb.end_lt h64) rfl
    fun hf => (installed_of_full hb tag hf).1

end

end Sys2Proof.Machine
end

section
/-! SUPPORT. An access on a machine that holds a configuration (spec 41_direct_mapped_bank.md R71;
42_associative_bank.md R78 to R80; 43_dispatcher_statistics.md R86 to R94): it is performed, and changes
its bank, the counters and the response registers as `State.afterAccess` says. -/

namespace Sys2Proof.Machine

/-! ### The direct-mapped engine (R71) -/

theorem dmLookupOrInstall_effect {s : State} {b : BankId} {i tagBits : Nat} {tag : Tag}
    (hb : (s.bank b).DirectMappedOk s.bankLength.toNat tagBits) (hin : s.inBank b i = true)
    (htag : tag.toNat < 2 ^ tagBits) (h64 : s.bankLength.toNat ≤ 64) :
    ∃ r bk, dmLookupOrInstall b i tag s = .ok (r, s.setBank b bk) ∧
      bk.DirectMappedOk s.bankLength.toNat tagBits ∧ (s.bank b).AccessEffect r bk := by
  obtain ⟨-, hi, hi64⟩ := (inBank_iff s b i).1 hin
  have hok := directMappedOk_writeSlot hb hi h64 htag
  have hmiss := accessEffect_miss (bk := s.bank b) (tag := tag) hi64 rfl id
  rw [dmLookupOrInstall_of_inBank tag hin]
  cases hv : ((s.bank b).slot i).valid with
  | false => exact ⟨_, _, rfl, hok, hv ▸ hmiss⟩
  | true =>
    by_cases ht : ((s.bank b).slot i).tag = tag
    · exact ⟨_, s.bank b, by simp [ht], hb, accessEffect_hit _⟩
    · exact ⟨_, _, by simp only [ht, if_false]; rfl, hok, hv ▸ hmiss⟩

/-! ### The associative engine (R78 to R80) -/

/-- An empty ring has no resident slot (R76, R77). -/
theorem occupancy_of_isEmpty {bk : Bank} {L : Nat} (h : bk.isEmpty = true) : bk.occupancy L = 0 := by
  obtain ⟨hf, hse⟩ := (isEmpty_iff bk).1 h
  simp [Bank.occupancy, hf, hse, ringMod]

theorem mem_residentTags_iff {bk : Bank} {L : Nat} (hb : bk.RingOk L) (tag : Tag) :
    tag ∈ bk.residentTags L ↔ ∃ j, j < bk.filled L ∧ (bk.slot j).tag = tag := by
  simp only [Bank.residentTags, List.mem_map, mem_residentSlots_iff hb.end_lt hb.start_zero]

/-- R78: the scan answers whether the tag is resident. -/
theorem faContains_eq {s : State} {b : BankId} (tag : Tag)
    (hb : (s.bank b).RingOk s.bankLength.toNat) (hn : b.number < s.nBanks.toNat)
    (h64 : s.bankLength.toNat ≤ 64) :
    faContains b tag s = .ok (decide (tag ∈ (s.bank b).residentTags s.bankLength.toNat)) := by
  have hL : 0 < s.bankLength.toNat := Nat.zero_lt_of_lt hb.end_lt
  unfold faContains
  split
  · next hempty =>
    simp [Bank.residentTags, Bank.residentSlots, occupancy_of_isEmpty hempty]
  · have hslot : ∀ m, (s.bank b).slotIndex s.ringLength m < s.bankLength.toNat :=
      fun m => Nat.mod_lt _ hL
    have hvalid : ∀ m, m < (s.bank b).occupancy s.ringLength →
        ((s.bank b).slot ((s.bank b).slotIndex s.ringLength m)).valid = true := fun m hm =>
      (hb.valid_iff _ (Nat.lt_of_lt_of_le (hslot m) h64)).2
        ((mem_residentSlots_iff hb.end_lt hb.start_zero _).1
          (List.mem_map_of_mem (List.mem_range.2 hm)))
    rw [faScan_eq s b tag _ 0 fun m _ _ =>
      (inBank_iff s b _).2 ⟨hn, hslot m, Nat.lt_of_lt_of_le (hslot m) h64⟩]
    congr 1
    rw [Bool.eq_iff_iff, List.any_eq_true, decide_eq_true_iff, ← List.range_eq_range']
    simp only [Bank.residentTags, Bank.residentSlots, List.map_map, List.mem_map, List.mem_range,
      Bool.and_eq_true, beq_iff_eq, Function.comp_apply]
    exact exists_congr fun m => and_congr_right fun hm => and_iff_right (hvalid m hm)

theorem faLookupOrInstall_effect {s : State} {b : BankId} (tag : Tag)
    (hb : (s.bank b).RingOk s.bankLength.toNat) (hn : b.number < s.nBanks.toNat)
    (h64 : s.bankLength.toNat ≤ 64) :
    ∃ r bk, faLookupOrInstall b tag s = .ok (r, s.setBank b bk) ∧
      bk.RingOk s.bankLength.toNat ∧ (s.bank b).AccessEffect r bk := by
  have hin : s.inBank b (s.bank b).end_.toNat = true :=
    (inBank_iff s b _).2 ⟨hn, hb.end_lt, Nat.lt_of_lt_of_le hb.end_lt h64⟩
  by_cases hmem : tag ∈ (s.bank b).residentTags s.bankLength.toNat
  · refine ⟨_, s.bank b, ?_, hb, accessEffect_hit _⟩
    simp only [faLookupOrInstall, faContains_eq tag hb hn h64, hmem, decide_true, setBank_bank_eq]
  · have habsent : ∀ j, j < (s.bank b).filled s.bankLength.toNat → ((s.bank b).slot j).tag ≠ tag :=
      fun j hj ht => hmem ((mem_residentTags_iff hb tag).2 ⟨j, hj, ht⟩)
    refine ⟨_, _, ?_, ringOk_installed hb tag h64 habsent, accessEffect_installed hb tag h64⟩
    simp only [faLookupOrInstall, faContains_eq tag hb hn h64, hmem, decide_false,
      faInstall_of_inBank tag hin, State.ringLength]

/-! ### The dispatcher (R87, R88) -/

/-- The bank of a kind satisfies its invariant. -/
theorem bankFor_ok {s : State} (hb : s.BanksOk) (k : AccessKind) :
    (s.bank (s.bankFor k)).ok s.cfg.mapping s.bankLength.toNat s.fields.tagBits.toNat = true := by
  obtain ⟨h0, -, h1⟩ := hb
  unfold State.bankFor
  split
  · next hk => exact h1 hk.1
  · exact h0

theorem lookupOrInstall_effect {s : State} (hc : s.Configured) (k : AccessKind) (a : Addr) :
    ∃ r bk, lookupOrInstall (s.bankFor k) (decodeAddress a s.fields) s =
        .ok (r, s.setBank (s.bankFor k) bk) ∧
      bk.ok s.cfg.mapping s.bankLength.toNat s.fields.tagBits.toNat = true ∧
      (s.bank (s.bankFor k)).AccessEffect r bk := by
  obtain ⟨hr, hb⟩ := hc
  have hok := bankFor_ok hb k
  have h64 := bankLength_le hr
  unfold lookupOrInstall
  cases hm : s.cfg.mapping with
  | directMapped =>
    rw [hm, ok_directMapped rfl] at hok
    have hin : s.inBank (s.bankFor k) (decodeAddress a s.fields).index.toNat = true := by
      rw [decodeAddress_index_toNat hr]
      exact inBank_bankFor hr k (indexOf_lt hr a hm)
    have htag : (decodeAddress a s.fields).tag26.toNat < 2 ^ s.fields.tagBits.toNat := by
      rw [decodeAddress_tag26 hr, ofNat_tagOf_toNat hr]
      exact tagOf_lt hr a
    obtain ⟨r, bk, hl, hbk, heffect⟩ := dmLookupOrInstall_effect hok hin htag h64
    exact ⟨r, bk, hl, (ok_directMapped rfl).2 hbk, heffect⟩
  | fullyAssociative =>
    rw [hm, ok_fullyAssociative rfl, associativeOk_iff_ringOk] at hok
    obtain ⟨r, bk, hl, hbk, heffect⟩ :=
      faLookupOrInstall_effect (decodeAddress a s.fields).tag26 hok (bankFor_lt_nBanks hr k) h64
    exact ⟨r, bk, hl, (ok_fullyAssociative rfl).2 ((associativeOk_iff_ringOk _ _).2 hbk), heffect⟩

/-- R87, R88: with a configuration held, an access that has passed its checks completes. -/
theorem performAccess_effect {s : State} (hc : s.Configured) (k : AccessKind) (a : Addr) :
    ∃ r bk, performAccess k a s = .next (s.afterAccess k a (s.bankFor k) bk r) ∧
      bk.ok s.cfg.mapping s.bankLength.toNat s.fields.tagBits.toNat = true ∧
      (s.bank (s.bankFor k)).AccessEffect r bk := by
  obtain ⟨r, bk, hl, hok, heffect⟩ := lookupOrInstall_effect hc k a
  obtain ⟨hr, -⟩ := hc
  refine ⟨r, bk, ?_, hok, heffect⟩
  simp only [performAccess, process, bankOf_eq_bankFor, hl, respond_recordOutcome_eq hr]

end Sys2Proof.Machine
end

section
/-! SUPPORT. What a command and a step can do, said once (spec 10_state.md R16; 30_encoding.md R45;
44_control_commands.md R97 to R100; 60_exceptions.md R103 to R105). -/

namespace Sys2Proof.Machine

/-! ### Commands -/

/-- Everything a command that answers a next state can have done: ignored in FAULTED (R104), a fault
entry (R103), a CONFIGURE (R97), an ACCESS (R88) or an END_TRACE (R99) that passed its checks. -/
inductive CommandEffect (i : Instr) (s : State) : State → Prop where
  | ignored (hp : s.phase = .faulted) : CommandEffect i s s
  | raised (e : BlockError) (hp : s.phase ≠ .faulted) (he : e ≠ .malformedRecord) :
      CommandEffect i s (raiseError e (encode i) s)
  | configured {size : BitVec 16} {m : Mapping} {o : Organization} {t : State}
      (hi : i = .configure size m o 0) (hp : s.phase = .unconfigured) (hsize : size ∈ legalSizes)
      (hcap : bankCountOf o * bankLengthOf size o ≤ s.params.maxBlocks)
      (h : performConfigure size m o s = .next t) : CommandEffect i s t
  | accessed {k : AccessKind} {a : Addr} {t : State} (hi : i = accessOf k a)
      (hp : s.phase = .running) (hmax : s.stats.accesses ≠ counterMax)
      (h : performAccess k a s = .next t) : CommandEffect i s t
  | ended (hi : i = .endTrace 0) (hp : s.phase = .running) :
      CommandEffect i s { s with phase := .ended }

theorem execConfigure_effect {size : BitVec 16} {m : Mapping} {o : Organization} {rsv : BitVec 14}
    {s t : State} (h : execConfigure size m o rsv s = .next t) :
    CommandEffect (.configure size m o rsv) s t := by
  obtain ⟨hp, rfl⟩ | ⟨hp, rfl⟩ | ⟨hp, -, rfl⟩ | ⟨hp, -, -, rfl⟩ | ⟨hp, hv, hcap, hperform⟩ :=
    execConfigure_next h
  · exact .ignored hp
  · exact .raised _ (by rcases hp with hp | hp <;> simp [hp]) nofun
  · exact .raised _ (by simp [hp]) nofun
  · exact .raised _ (by simp [hp]) nofun
  · obtain ⟨rfl, hsize⟩ := legal_of_configValid hv
    exact .configured rfl hp hsize hcap hperform

theorem accessCommand_effect {k : AccessKind} {a : Addr} {s t : State}
    (h : accessCommand k a (encode (accessOf k a)) s = .next t) :
    CommandEffect (accessOf k a) s t := by
  obtain ⟨hp, rfl⟩ | ⟨hp, rfl⟩ | ⟨hp, rfl⟩ | ⟨hp, -, rfl⟩ | ⟨hp, hmax, hperform⟩ :=
    accessCommand_next h
  · exact .ignored hp
  · exact .raised _ (by simp [hp]) nofun
  · exact .raised _ (by simp [hp]) nofun
  · exact .raised _ (by simp [hp]) nofun
  · exact .accessed rfl hp hmax hperform

theorem execEndTrace_effect {z : BitVec 32} {s t : State} (h : execEndTrace z s = .next t) :
    CommandEffect (.endTrace z) s t := by
  obtain ⟨hp, rfl⟩ | ⟨hp, rfl⟩ | ⟨hp, rfl⟩ | ⟨hp, rfl, rfl⟩ | ⟨hp, -, rfl⟩ := execEndTrace_next h
  · exact .ignored hp
  · exact .raised _ (by simp [hp]) nofun
  · exact .raised _ (by simp [hp]) nofun
  · exact .ended rfl hp
  · exact .raised _ (by simp [hp]) nofun

theorem reservedCommand_effect {i : Instr} {s t : State}
    (h : reservedCommand (encode i) s = .next t) : CommandEffect i s t := by
  rw [reservedCommand_eq] at h
  split at h
  · next hp => cases h; exact .ignored hp
  · next hp => cases h; exact .raised _ hp nofun

theorem exec_effect {i : Instr} {s t : State} (h : exec i s = .next t) : CommandEffect i s t := by
  cases i with
  | configure => exact execConfigure_effect h
  | accessI a => exact accessCommand_effect (k := .instruction) h
  | accessD a => exact accessCommand_effect (k := .data) h
  | endTrace => exact execEndTrace_effect h
  | _ => exact reservedCommand_effect h

/-! ### Steps -/

/-- Everything a step can do: reset, or, with no reset, hold all state or perform one command. -/
theorem step_effect {s t : State} (h : step s = .next t) :
    (s.rstAsserted = true ∧ t = applyReset { s with inputs := s.inputs.tail }) ∨
    (s.rstAsserted = false ∧ (t = { s with inputs := s.inputs.tail } ∨
      ∃ i, CommandEffect i { s with inputs := s.inputs.tail } t)) := by
  obtain ⟨hi, rfl⟩ | ⟨p, rest, hi, hr, rfl⟩ | ⟨p, rest, hi, hr, -, hx⟩ | ⟨p, rest, hi, hr, -, rfl⟩ :=
    step_next h
  · exact .inr ⟨by simp [State.rstAsserted, hi], .inl (by rw [hi, List.tail_nil, ← hi])⟩
  · exact .inl ⟨by simp [State.rstAsserted, hi, hr], by simp [hi]⟩
  · exact .inr ⟨by simp [State.rstAsserted, hi, hr], .inr ⟨_, by simpa [hi] using exec_effect hx⟩⟩
  · exact .inr ⟨by simp [State.rstAsserted, hi, hr], .inl (by simp [hi])⟩

/-- A relation between a state and the next one holds of every step without `rst` when it holds of an
idle step and of every command. -/
theorem step_noReset_induction {P : State → State → Prop} {s t : State} (hrst : s.NoReset)
    (h : step s = .next t) (hidle : P s { s with inputs := s.inputs.tail })
    (hcommand : ∀ i, CommandEffect i { s with inputs := s.inputs.tail } t → P s t) : P s t := by
  obtain ⟨hr, -⟩ | ⟨-, rfl | ⟨i, hx⟩⟩ := step_effect h
  · rw [hrst] at hr; cases hr
  · exact hidle
  · exact hcommand i hx

/-! ### The writes of a CONFIGURE that passed its checks (R97) -/

section
variable {size : BitVec 16} {m : Mapping} {o : Organization} {s t : State}

theorem performConfigure_answers (hsize : size ∈ legalSizes) :
    ∃ t, performConfigure size m o s = .next t := by
  have hib := indexBitsOf_legal_le hsize o m
  exact ⟨_, by rw [performConfigure, computeFields_of_le (by omega)]⟩

theorem performConfigure_writes (h : performConfigure size m o s = .next t) :
    t.phase = .running ∧ t.stats = Statistics.zero ∧ t.errCode = s.errCode ∧ t.errCmd = s.errCmd ∧
      t.resp = s.resp := by
  obtain ⟨f, -, rfl⟩ := performConfigure_next h
  exact ⟨rfl, rfl, rfl, rfl, rfl⟩

/-- R19, R61 to R65: the registers are the ones the configuration gives. -/
theorem performConfigure_registersDerived (hsize : size ∈ legalSizes)
    (hcap : bankCountOf o * bankLengthOf size o ≤ s.params.maxBlocks)
    (h : performConfigure size m o s = .next t) : t.RegistersDerived := by
  have hib := indexBitsOf_legal_le hsize o m
  obtain ⟨-, hL, -⟩ := bankLengthOf_legal hsize o
  obtain ⟨f, hf, rfl⟩ := performConfigure_next h
  rw [computeFields_of_le (by omega)] at hf
  cases hf
  have hindex : (BitVec.ofNat 6 (indexBitsOf (bankLengthOf size o) m)).toNat =
      indexBitsOf (bankLengthOf size o) m := Nat.mod_eq_of_lt (by omega)
  have htag : (BitVec.ofNat 6 (26 - indexBitsOf (bankLengthOf size o) m)).toNat =
      26 - indexBitsOf (bankLengthOf size o) m := Nat.mod_eq_of_lt (by omega)
  refine ⟨hsize, by cases o <;> rfl, Nat.mod_eq_of_lt (by omega), rfl,
    hindex.trans (indexBitsOf_legal hsize o m), ?_, hcap⟩
  change 6 + _ + _ = 32
  rw [hindex, htag]
  omega

theorem allocate_empty (L : Nat) : Bank.empty.allocate L = Bank.empty := by
  have hslots : (Bank.empty.allocate L).slots = Bank.empty.slots := by
    ext j hj : 1
    simp [Bank.allocate, Bank.empty]
  simp only [Bank.allocate] at hslots ⊢
  rw [hslots]
  rfl

/-- The banks of a block that holds no configuration are empty, and stay so (R97). -/
theorem performConfigure_banks (h0 : s.bank0 = Bank.empty) (h1 : s.bank1 = Bank.empty)
    (h : performConfigure size m o s = .next t) : t.bank0 = Bank.empty ∧ t.bank1 = Bank.empty := by
  obtain ⟨f, -, rfl⟩ := performConfigure_next h
  simp [h0, h1, allocate_empty]

theorem performConfigure_configured (hu : s.Unconfigured) (hsize : size ∈ legalSizes)
    (hcap : bankCountOf o * bankLengthOf size o ≤ s.params.maxBlocks)
    (h : performConfigure size m o s = .next t) : t.Configured := by
  obtain ⟨-, -, -, -, h0, h1, -⟩ := hu
  have hr := performConfigure_registersDerived hsize hcap h
  obtain ⟨h0', h1'⟩ := performConfigure_banks h0 h1 h
  have hempty := empty_ok t.cfg.mapping t.fields.tagBits.toNat (bankLength_pos hr)
  exact ⟨hr, h0' ▸ hempty, fun _ => h1', fun _ => h1' ▸ hempty⟩

end

/-! ### A completed access (R88, R93) -/

@[simp] theorem afterAccess_bank (s : State) (k : AccessKind) (a : Addr) (b c : BankId) (bk : Bank)
    (r : LookupResult) : (s.afterAccess k a b bk r).bank c = if c = b then bk else s.bank c := by
  cases b <;> cases c <;> rfl

/-- What a completed access leaves of the registers that CONFIGURE and a fault write (R88, R120). -/
theorem performAccess_frame {k : AccessKind} {a : Addr} {s t : State}
    (h : performAccess k a s = .next t) :
    t.phase = s.phase ∧ t.errCode = s.errCode ∧ t.errCmd = s.errCmd ∧ t.cfg = s.cfg ∧
      t.nBanks = s.nBanks ∧ t.bankLength = s.bankLength ∧ t.fields = s.fields := by
  obtain ⟨r, bk, -, rfl⟩ := performAccess_next h
  simp

theorem bankFor_eq_bank1 {s : State} {k : AccessKind} (h : s.bankFor k = .bank1) :
    s.cfg.org = .split := by
  unfold State.bankFor at h
  split at h
  · next hk => exact hk.1
  · cases h

theorem afterAccess_configured {s : State} (k : AccessKind) (a : Addr) {bk : Bank} (r : LookupResult)
    (hc : s.Configured)
    (hok : bk.ok s.cfg.mapping s.bankLength.toNat s.fields.tagBits.toNat = true) :
    (s.afterAccess k a (s.bankFor k) bk r).Configured := by
  obtain ⟨hr, h0, hunified, hsplit⟩ := hc
  refine ⟨hr, ?_⟩
  cases hb : s.bankFor k with
  | bank0 => exact ⟨hok, hunified, hsplit⟩
  | bank1 =>
    have horg := bankFor_eq_bank1 hb
    exact ⟨h0, fun hu => absurd (horg.symm.trans hu) nofun, fun _ => hok⟩

theorem counter_toNat_add_one {c : Counter} (h : c.toNat + 1 < 2 ^ 64) : (c + 1).toNat = c.toNat + 1 := by
  bv_omega

theorem counter_toNat_add_one_lt {c : Counter} (h : c ≠ counterMax) : c.toNat + 1 < 2 ^ 64 := by
  have hne : c.toNat ≠ 2 ^ 64 - 1 := fun heq => h (BitVec.eq_of_toNat_eq heq)
  have hlt := c.isLt
  omega

/-- R93 with R29: the counters after an access, none of which wraps. -/
theorem afterAccess_counters {s : State} (hs : s.CountersOk) (hmax : s.stats.accesses ≠ counterMax)
    (k : AccessKind) (a : Addr) (b : BankId) (bk : Bank) (r : LookupResult) :
    (s.afterAccess k a b bk r).stats.accesses.toNat = s.stats.accesses.toNat + 1 ∧
    (s.afterAccess k a b bk r).stats.hits.toNat =
      s.stats.hits.toNat + (if r.result = .hit then 1 else 0) ∧
    (s.afterAccess k a b bk r).stats.evicts.toNat =
      s.stats.evicts.toNat + (if r.evicted = true then 1 else 0) := by
  obtain ⟨hhits, hevicts⟩ := hs
  have hlt := counter_toNat_add_one_lt hmax
  have hmisses : s.misses ≤ s.stats.accesses.toNat := Nat.sub_le _ _
  refine ⟨counter_toNat_add_one hlt, ?_, ?_⟩ <;> simp only [State.afterAccess] <;> split
  · exact counter_toNat_add_one (by omega)
  · rfl
  · exact counter_toNat_add_one (by omega)
  · rfl

end Sys2Proof.Machine
end

section
/-! SUPPORT. The block's invariant (spec 10_state.md R16 to R19, R24, R27 to R29): it holds at reset, and
every step keeps it and the account of the misses and answers a next state. -/

namespace Sys2Proof.Machine

/-! ### The phase and the configuration (R16) -/

section
variable {s : State}

theorem phaseOk_unconfigured (hp : s.phase = .unconfigured) :
    s.phaseOk = true ↔ s.Unconfigured := by
  simp only [State.phaseOk, hp, decide_eq_true_eq]

theorem phaseOk_running (hp : s.phase = .running) : s.phaseOk = true ↔ s.Configured := by
  simp only [State.phaseOk, hp, decide_eq_true_eq]

theorem phaseOk_ended (hp : s.phase = .ended) : s.phaseOk = true ↔ s.Configured := by
  simp only [State.phaseOk, hp, decide_eq_true_eq]

theorem phaseOk_faulted (hp : s.phase = .faulted) :
    s.phaseOk = true ↔ s.Unconfigured ∨ s.Configured := by
  simp only [State.phaseOk, hp, decide_eq_true_eq]

theorem unconfigured_or_configured (h : s.phaseOk = true) : s.Unconfigured ∨ s.Configured := by
  cases hp : s.phase with
  | unconfigured => exact .inl ((phaseOk_unconfigured hp).1 h)
  | running => exact .inr ((phaseOk_running hp).1 h)
  | ended => exact .inr ((phaseOk_ended hp).1 h)
  | faulted => exact (phaseOk_faulted hp).1 h

theorem unconfigured_of_inv (hs : s.Inv) (hp : s.phase = .unconfigured) : s.Unconfigured :=
  (phaseOk_unconfigured hp).1 hs.1

theorem configured_of_inv (hs : s.Inv) (hp : s.phase = .running) : s.Configured :=
  (phaseOk_running hp).1 hs.1

theorem countersOk_of_inv (hs : s.Inv) : s.CountersOk := by
  obtain ⟨-, -, hcounters, -⟩ := hs
  exact hcounters

/-- The error registers are as reset left them while the block is not FAULTED (R17). -/
theorem errorRegistersOk_of_unchanged {t : State} (hs : s.ErrorRegistersOk) (hp : s.phase ≠ .faulted)
    (hp' : t.phase ≠ .faulted) (hcode : t.errCode = s.errCode) (hcmd : t.errCmd = s.errCmd) :
    t.ErrorRegistersOk := by
  obtain ⟨hfault, hle, hne, hzero⟩ := hs
  rw [State.ErrorRegistersOk, hcode, hcmd]
  exact ⟨iff_of_false (fun h => hp (hfault.1 h)) hp', hle, hne, fun _ => hzero hp⟩

/-- What the host offers next is not the block's state. -/
theorem inv_with_inputs (ins : List PortSample) : ({ s with inputs := ins } : State).Inv ↔ s.Inv :=
  Iff.rfl

theorem missesAccounted_with_inputs (ins : List PortSample) :
    ({ s with inputs := ins } : State).MissesAccounted ↔ s.MissesAccounted := Iff.rfl

end

/-! ### The invariant at reset and after each kind of step -/

/-- R116: reset leaves the invariant, from any state. -/
theorem applyReset_inv (s : State) : (applyReset s).Inv := by
  refine ⟨(phaseOk_unconfigured rfl).2 ?_, ?_, ?_, ?_⟩
  · exact ⟨rfl, rfl, rfl, rfl, rfl, rfl, rfl, rfl⟩
  · exact ⟨iff_of_false (fun h => h rfl) nofun, Nat.zero_le 8, (by decide : (0 : BitVec 4) ≠ 3), fun _ => rfl⟩
  · exact ⟨Nat.le_refl 0, Nat.le_refl 0⟩
  · exact ⟨iff_of_false nofun (fun h => h rfl), fun _ => rfl, nofun⟩

theorem empty_validCount : Bank.empty.validCount = 0 := by
  simp [Bank.validCount, Bank.empty, CacheBlock.empty]

theorem missesAccounted_of_empty {s : State} (h0 : s.bank0 = Bank.empty) (h1 : s.bank1 = Bank.empty)
    (hstats : s.stats = Statistics.zero) : s.MissesAccounted := by
  simp [State.MissesAccounted, State.misses, h0, h1, hstats, empty_validCount, Statistics.zero]

/-- R102: the codes the block raises. -/
theorem code_of_raised {e : BlockError} (he : e ≠ .malformedRecord) :
    e.code ≠ 0 ∧ e.code.toNat ≤ 8 ∧ e.code ≠ 3 := by
  revert he
  cases e <;> decide

theorem raiseError_inv {s : State} {e : BlockError} (w : CmdWord) (hs : s.Inv)
    (he : e ≠ .malformedRecord) : (raiseError e w s).Inv := by
  obtain ⟨hphase, -, hcounters, hresp⟩ := hs
  obtain ⟨hne, hle, hne3⟩ := code_of_raised he
  have hcfg := unconfigured_or_configured hphase
  exact ⟨(phaseOk_faulted rfl).2 hcfg,
    ⟨iff_of_true hne rfl, hle, hne3, fun h => absurd rfl h⟩, hcounters, hresp⟩

theorem ended_inv {s : State} (hs : s.Inv) (hp : s.phase = .running) :
    ({ s with phase := .ended } : State).Inv := by
  have hc := configured_of_inv hs hp
  obtain ⟨-, herr, hcounters, hresp⟩ := hs
  exact ⟨(phaseOk_ended rfl).2 hc,
    errorRegistersOk_of_unchanged herr (by simp [hp]) nofun rfl rfl, hcounters, hresp⟩

theorem performConfigure_inv {size : BitVec 16} {m : Mapping} {o : Organization} {s t : State}
    (hs : s.Inv) (hp : s.phase = .unconfigured) (hsize : size ∈ legalSizes)
    (hcap : bankCountOf o * bankLengthOf size o ≤ s.params.maxBlocks)
    (h : performConfigure size m o s = .next t) : t.Inv := by
  have hu := unconfigured_of_inv hs hp
  have hc := performConfigure_configured hu hsize hcap h
  obtain ⟨-, herr, -, -⟩ := hs
  obtain ⟨-, -, -, -, -, -, -, hresp⟩ := hu
  obtain ⟨hp', hstats, hcode, hcmd, hresp'⟩ := performConfigure_writes h
  refine ⟨(phaseOk_running hp').2 hc,
    errorRegistersOk_of_unchanged herr (by simp [hp]) (by simp [hp']) hcode hcmd, ?_, ?_⟩
  · simp [State.CountersOk, State.misses, hstats, Statistics.zero]
  · simp [State.ResponseOk, hresp', hresp, hstats, Statistics.zero, Response.reset]

section
variable {s : State} (hs : s.Inv) (hp : s.phase = .running) (hmax : s.stats.accesses ≠ counterMax)
  (k : AccessKind) (a : Addr) {bk : Bank} {r : LookupResult}
  (heffect : (s.bank (s.bankFor k)).AccessEffect r bk)
include hs hmax heffect

/-- R93: an access that evicts is a miss. -/
theorem afterAccess_countersOk (b : BankId) : (s.afterAccess k a b bk r).CountersOk := by
  have hok := countersOk_of_inv hs
  obtain ⟨hacc, hhits, hevicts⟩ := afterAccess_counters hok hmax k a b bk r
  obtain ⟨hle, hle'⟩ := hok
  have hevict := heffect.hit_evicts_nothing
  simp only [State.CountersOk, State.misses, hacc, hhits, hevicts] at hle' ⊢
  cases hres : r.result with
  | hit =>
    simp only [hevict hres, Bool.false_eq_true, if_true, if_false]
    omega
  | miss =>
    simp only [reduceCtorEq, if_false]
    split <;> omega

theorem afterAccess_responseOk (b : BankId) : (s.afterAccess k a b bk r).ResponseOk := by
  obtain ⟨hacc, -, -⟩ := afterAccess_counters (countersOk_of_inv hs) hmax k a b bk r
  refine ⟨iff_of_true rfl fun h => ?_, nofun, fun h => ?_⟩
  · rw [h] at hacc; cases hacc
  · exact heffect.hit_evicts_nothing (of_decide_eq_true h)

include hp

theorem afterAccess_inv
    (hok : bk.ok s.cfg.mapping s.bankLength.toNat s.fields.tagBits.toNat = true) :
    (s.afterAccess k a (s.bankFor k) bk r).Inv := by
  have hcounters := afterAccess_countersOk hs hmax k a heffect (s.bankFor k)
  have hresp := afterAccess_responseOk hs hmax k a heffect (s.bankFor k)
  have hc := afterAccess_configured k a r (configured_of_inv hs hp) hok
  have hp' : (s.afterAccess k a (s.bankFor k) bk r).phase = .running := hp
  obtain ⟨-, herr, -, -⟩ := hs
  exact ⟨(phaseOk_running hp').2 hc,
    errorRegistersOk_of_unchanged herr (by simp [hp]) (by simp [hp']) rfl rfl, hcounters, hresp⟩

omit hp in
/-- R74 (ii), R82 (iv): a miss evicts or makes one more slot valid. -/
theorem afterAccess_missesAccounted (hacct : s.MissesAccounted) :
    (s.afterAccess k a (s.bankFor k) bk r).MissesAccounted := by
  have hok := countersOk_of_inv hs
  obtain ⟨hacc, hhits, hevicts⟩ := afterAccess_counters hok hmax k a (s.bankFor k) bk r
  obtain ⟨hle, -⟩ := hok
  have hcount := heffect.validCount_eq
  have hevict := heffect.hit_evicts_nothing
  have hbanks : (s.afterAccess k a (s.bankFor k) bk r).bank0.validCount +
      (s.afterAccess k a (s.bankFor k) bk r).bank1.validCount +
        (s.bank (s.bankFor k)).validCount =
      s.bank0.validCount + s.bank1.validCount + bk.validCount := by
    cases s.bankFor k <;> simp [State.afterAccess] <;> omega
  simp only [State.MissesAccounted, State.misses, hacc, hhits, hevicts] at hacct ⊢
  cases hres : r.result with
  | hit =>
    simp only [hevict hres, hres, Bool.false_eq_true, if_true, if_false] at hcount ⊢
    omega
  | miss =>
    simp only [hres, reduceCtorEq, if_false] at hcount ⊢
    omega

end

/-! ### Every step -/

theorem commandEffect_inv {i : Instr} {s t : State} (hs : s.Inv) (h : CommandEffect i s t) : t.Inv := by
  cases h with
  | ignored => exact hs
  | raised e hp he => exact raiseError_inv _ hs he
  | configured hi hp hsize hcap h => exact performConfigure_inv hs hp hsize hcap h
  | ended hi hp => exact ended_inv hs hp
  | @accessed k a _ hi hp hmax h =>
    obtain ⟨r, bk, hperform, hok, heffect⟩ := performAccess_effect (configured_of_inv hs hp) k a
    cases hperform.symm.trans h
    exact afterAccess_inv hs hp hmax k a heffect hok

theorem commandEffect_missesAccounted {i : Instr} {s t : State} (hs : s.Inv)
    (hacct : s.MissesAccounted) (h : CommandEffect i s t) : t.MissesAccounted := by
  cases h with
  | ignored => exact hacct
  | raised => exact hacct
  | ended => exact hacct
  | configured hi hp hsize hcap h =>
    obtain ⟨-, -, -, -, h0, h1, -⟩ := unconfigured_of_inv hs hp
    obtain ⟨h0', h1'⟩ := performConfigure_banks h0 h1 h
    obtain ⟨-, hstats, -⟩ := performConfigure_writes h
    exact missesAccounted_of_empty h0' h1' hstats
  | @accessed k a _ hi hp hmax h =>
    obtain ⟨r, bk, hperform, -, heffect⟩ := performAccess_effect (configured_of_inv hs hp) k a
    cases hperform.symm.trans h
    exact afterAccess_missesAccounted hs hmax k a heffect hacct

theorem step_inv {s t : State} (hs : s.Inv) (h : step s = .next t) : t.Inv := by
  obtain ⟨-, rfl⟩ | ⟨-, rfl | ⟨i, hx⟩⟩ := step_effect h
  · exact applyReset_inv _
  · exact (inv_with_inputs _).2 hs
  · exact commandEffect_inv ((inv_with_inputs _).2 hs) hx

theorem step_missesAccounted {s t : State} (hs : s.Inv) (hacct : s.MissesAccounted)
    (h : step s = .next t) : t.MissesAccounted := by
  obtain ⟨-, rfl⟩ | ⟨-, rfl | ⟨i, hx⟩⟩ := step_effect h
  · exact missesAccounted_of_empty rfl rfl rfl
  · exact (missesAccounted_with_inputs _).2 hacct
  · exact commandEffect_missesAccounted ((inv_with_inputs _).2 hs)
      ((missesAccounted_with_inputs _).2 hacct) hx

/-! ### Every command has an outcome (R32, R64, R101) -/

section
variable {s : State} (hs : s.Inv)

include hs in
theorem accessCommand_answers (k : AccessKind) (a : Addr) (w : CmdWord) :
    ∃ t, accessCommand k a w s = .next t := by
  unfold accessCommand
  cases hp : s.phase with
  | unconfigured => exact ⟨_, rfl⟩
  | ended => exact ⟨_, rfl⟩
  | faulted => exact ⟨_, rfl⟩
  | running =>
    obtain ⟨r, bk, hperform, -⟩ := performAccess_effect (configured_of_inv hs hp) k a
    dsimp only
    split
    · exact ⟨_, rfl⟩
    · exact ⟨_, hperform⟩

theorem configureUnconfigured_answers (size : BitVec 16) (m : Mapping) (o : Organization)
    (rsv : BitVec 14) (w : CmdWord) (s : State) :
    ∃ t, configureUnconfigured size m o rsv w s = .next t := by
  unfold configureUnconfigured
  split
  · exact ⟨_, rfl⟩
  · next hv =>
    split
    · exact ⟨_, rfl⟩
    · exact performConfigure_answers (legal_of_configValid (by simpa using hv)).2

theorem execConfigure_answers (size : BitVec 16) (m : Mapping) (o : Organization) (rsv : BitVec 14)
    (s : State) : ∃ t, execConfigure size m o rsv s = .next t := by
  unfold execConfigure
  cases s.phase with
  | unconfigured => exact configureUnconfigured_answers size m o rsv _ s
  | running => exact ⟨_, rfl⟩
  | ended => exact ⟨_, rfl⟩
  | faulted => exact ⟨_, rfl⟩

theorem execEndTrace_answers (z : BitVec 32) (s : State) : ∃ t, execEndTrace z s = .next t := by
  unfold execEndTrace
  cases s.phase with
  | unconfigured => exact ⟨_, rfl⟩
  | running => dsimp only; split <;> exact ⟨_, rfl⟩
  | ended => exact ⟨_, rfl⟩
  | faulted => exact ⟨_, rfl⟩

theorem reservedCommand_answers (w : CmdWord) (s : State) : ∃ t, reservedCommand w s = .next t := by
  rw [reservedCommand_eq]
  split <;> exact ⟨_, rfl⟩

include hs

theorem exec_answers (i : Instr) : ∃ t, exec i s = .next t := by
  cases i with
  | configure => exact execConfigure_answers _ _ _ _ s
  | accessI => exact accessCommand_answers hs _ _ _
  | accessD => exact accessCommand_answers hs _ _ _
  | endTrace => exact execEndTrace_answers _ s
  | _ => exact reservedCommand_answers _ s

theorem step_answers : ∃ t, step s = .next t := by
  unfold step
  split
  · exact ⟨_, rfl⟩
  · unfold takeSample
    split
    · exact ⟨_, rfl⟩
    · split
      · exact exec_answers ((inv_with_inputs _).2 hs) _
      · exact ⟨_, rfl⟩

end

theorem run_succ_of_step (M : Host.Core) (n : Nat) {s u : M.State} (h : M.step s = .next u) :
    M.run (n + 1) s = M.run n u := by
  rw [Host.Core.run, h]

/-- Every run from a state that satisfies the invariant and the account of the misses goes on and keeps
both. -/
theorem run_answers_inv (n : Nat) {s : State} (hs : s.Inv) (hacct : s.MissesAccounted) :
    ∃ t, Sys2Proof.core.run n s = .next t ∧ t.Inv ∧ t.MissesAccounted := by
  induction n generalizing s with
  | zero => exact ⟨s, rfl, hs, hacct⟩
  | succ n ih =>
    obtain ⟨u, hu⟩ := step_answers hs
    obtain ⟨t, hrun, hinv⟩ := ih (step_inv hs hu) (step_missesAccounted hs hacct hu)
    exact ⟨t, (run_succ_of_step Sys2Proof.core n hu).trans hrun, hinv⟩

end Sys2Proof.Machine
end

section
/-! SUPPORT. The statements about the state (spec 10_state.md): its reset values, its invariant, the life
cycle and what each register keeps. -/

namespace Sys2Proof.Machine

/-! ### Reset -/

/-- Settles O10: R116's clause for the slots is that every slot of an empty bank is invalid with tag 0;
the registers are read off `State.reset`. -/
theorem resetValues : Obligations.ResetValues := by
  have hbank : ∀ b : BankId, State.reset.bank b = Bank.empty := fun b => by cases b <;> rfl
  refine ⟨rfl, rfl, rfl, rfl, rfl, rfl, rfl, rfl, rfl, rfl, rfl, fun b => ?_, rfl, rfl, rfl, rfl, rfl,
    rfl, rfl, rfl, rfl, rfl, rfl, rfl⟩
  rw [hbank b]
  exact ⟨rfl, rfl, rfl, fun j hj => by simp [Bank.empty, CacheBlock.empty, hj]⟩

/-- `State.reset` is what a reset leaves of it. -/
theorem reset_inv : State.reset.Inv := applyReset_inv State.reset

theorem reset_missesAccounted : State.reset.MissesAccounted := missesAccounted_of_empty rfl rfl rfl

/-- Settles O49: no configuration is held at reset, so the ring's fill law says nothing there. -/
theorem invariantAtReset : Obligations.InvariantAtReset :=
  ⟨reset_inv, reset_missesAccounted, nofun⟩

/-! ### The invariant -/

/-- Settles O50: each kind of step keeps the invariant. -/
theorem everyStepKeepsTheInvariant : Obligations.EveryStepKeepsTheInvariant :=
  fun _ _ hs h => step_inv hs h

/-- Settles O53, by induction on the number of steps. -/
theorem runsFromResetNeverStop : Obligations.RunsFromResetNeverStop := fun ins n =>
  run_answers_inv n ((inv_with_inputs ins).2 reset_inv)
    ((missesAccounted_with_inputs ins).2 reset_missesAccounted)

/-! ### Counters, valid bits and flags -/

/-- R23: the counters of `t` are no smaller than those of `s`. -/
def State.CountersLe (s t : State) : Prop :=
  s.stats.accesses.toNat ≤ t.stats.accesses.toNat ∧ s.stats.hits.toNat ≤ t.stats.hits.toNat ∧
    s.stats.evicts.toNat ≤ t.stats.evicts.toNat

theorem countersLe_of_stats_eq {s t : State} (h : t.stats = s.stats) : s.CountersLe t := by
  simp [State.CountersLe, h]

theorem commandEffect_countersLe {i : Instr} {s t : State} (hs : s.Inv) (h : CommandEffect i s t) :
    s.CountersLe t := by
  cases h with
  | ignored => exact countersLe_of_stats_eq rfl
  | raised => exact countersLe_of_stats_eq rfl
  | ended => exact countersLe_of_stats_eq rfl
  | configured hi hp hsize hcap h =>
    obtain ⟨-, -, -, -, -, -, hzero, -⟩ := unconfigured_of_inv hs hp
    obtain ⟨-, hstats, -⟩ := performConfigure_writes h
    exact countersLe_of_stats_eq (hstats.trans hzero.symm)
  | @accessed k a _ hi hp hmax h =>
    obtain ⟨r, bk, hperform, -⟩ := performAccess_effect (configured_of_inv hs hp) k a
    cases hperform.symm.trans h
    obtain ⟨hacc, hhits, hevicts⟩ :=
      afterAccess_counters (countersOk_of_inv hs) hmax k a (s.bankFor k) bk r
    exact ⟨by omega, by omega, by omega⟩

/-- Settles O43: no access wraps a counter, and CONFIGURE zeroes counters that are zero. -/
theorem countersAreMonotonic : Obligations.CountersAreMonotonic := fun s _ hs hrst h =>
  step_noReset_induction (P := State.CountersLe) hrst h (countersLe_of_stats_eq rfl)
    fun _ => commandEffect_countersLe (s := { s with inputs := s.inputs.tail }) hs

/-- R42, R28 (v): what is valid or full in the bank `bk` is so in `bk'`. -/
def Bank.Stays (bk bk' : Bank) : Prop :=
  (∀ j, (bk.slot j).valid = true → (bk'.slot j).valid = true) ∧
    (bk.isFull = true → bk'.isFull = true)

theorem stays_refl (bk : Bank) : bk.Stays bk := ⟨fun _ h => h, id⟩

theorem commandEffect_banks_stay {i : Instr} {s t : State} (hs : s.Inv) (h : CommandEffect i s t)
    (b : BankId) : (s.bank b).Stays (t.bank b) := by
  cases h with
  | ignored => exact stays_refl _
  | raised => cases b <;> exact stays_refl _
  | ended => cases b <;> exact stays_refl _
  | configured hi hp hsize hcap h =>
    obtain ⟨-, -, -, -, h0, h1, -⟩ := unconfigured_of_inv hs hp
    obtain ⟨h0', h1'⟩ := performConfigure_banks h0 h1 h
    cases b
    · rw [bank_bank0, bank_bank0, h0, h0']; exact stays_refl _
    · rw [bank_bank1, bank_bank1, h1, h1']; exact stays_refl _
  | @accessed k a _ hi hp hmax h =>
    obtain ⟨r, bk, hperform, -, heffect⟩ := performAccess_effect (configured_of_inv hs hp) k a
    cases hperform.symm.trans h
    rw [afterAccess_bank]
    split
    · next hb => exact hb ▸ ⟨heffect.valid_stays, heffect.full_stays⟩
    · exact stays_refl _

/-- Settles O48: an access clears no valid bit and no full ring's flag, and CONFIGURE finds its banks
empty. -/
theorem validAndFullStaySet : Obligations.ValidAndFullStaySet := fun s _ hs hrst h b =>
  step_noReset_induction (P := fun s t => (s.bank b).Stays (t.bank b)) hrst h
    (by cases b <;> exact stays_refl _)
    fun _ hx => by
      have hstay := commandEffect_banks_stay (s := { s with inputs := s.inputs.tail }) hs hx b
      cases b <;> exact hstay

/-! ### The life cycle -/

/-- R16: where a command leads, phase by phase. -/
theorem commandEffect_phase {i : Instr} {s t : State} (h : CommandEffect i s t) :
    (s.phase = .unconfigured →
      (t.phase = .running ∧ ∃ size map org, i = .configure size map org 0) ∨ t.phase = .faulted) ∧
    (s.phase = .running →
      (t.phase = .running ∧ ∃ k a, i = accessOf k a) ∨ (t.phase = .ended ∧ i = .endTrace 0) ∨
        t.phase = .faulted) ∧
    (s.phase = .ended → t.phase = .faulted) ∧
    (s.phase = .faulted → t.phase = .faulted) := by
  cases h with
  | ignored hp => simp [hp]
  | raised => simp
  | configured hi hp hsize hcap h => simp [hp, hi, (performConfigure_writes h).1]
  | accessed hi hp hmax h => simp [hp, hi, (performAccess_frame h).1]
  | ended hi hp => simp [hp, hi]

/-- Settles O45: each kind of command leads where R16 says. -/
theorem phaseTransitions : Obligations.PhaseTransitions := by
  refine ⟨fun s t h hrst => ?_, fun s t p rest hi hr hv h => ?_⟩
  · obtain ⟨-, rfl⟩ | ⟨hrst', -⟩ := step_effect h
    · rfl
    · rw [hrst] at hrst'; cases hrst'
  · simp only [step, hi, takeSample, hr, hv, Bool.false_eq_true, if_false, if_true] at h
    exact commandEffect_phase (s := { s with inputs := rest }) (exec_effect h)

/-- R18, R19: `t` holds the configuration and the derived registers of `s`. -/
def State.SameConfiguration (s t : State) : Prop :=
  t.cfg = s.cfg ∧ t.nBanks = s.nBanks ∧ t.bankLength = s.bankLength ∧ t.fields = s.fields

theorem commandEffect_sameConfiguration {i : Instr} {s t : State} (h : CommandEffect i s t)
    (hphase : s.phase ≠ .unconfigured ∨ t.phase ≠ .running) : s.SameConfiguration t := by
  cases h with
  | ignored => exact ⟨rfl, rfl, rfl, rfl⟩
  | raised => exact ⟨rfl, rfl, rfl, rfl⟩
  | ended => exact ⟨rfl, rfl, rfl, rfl⟩
  | configured hi hp hsize hcap h => simp [hp, (performConfigure_writes h).1] at hphase
  | accessed hi hp hmax h =>
    obtain ⟨-, -, -, hcfg, hnb, hL, hf⟩ := performAccess_frame h
    exact ⟨hcfg, hnb, hL, hf⟩

/-- Settles O46: only a CONFIGURE that completes writes the configuration, and it leads from
UNCONFIGURED to RUNNING. -/
theorem configurationWrittenOncePerReset : Obligations.ConfigurationWrittenOncePerReset :=
  fun s _ hrst h =>
    step_noReset_induction
      (P := fun s t => s.phase ≠ .unconfigured ∨ t.phase ≠ .running → s.SameConfiguration t) hrst h
      (fun _ => ⟨rfl, rfl, rfl, rfl⟩)
      fun _ => commandEffect_sameConfiguration (s := { s with inputs := s.inputs.tail })

theorem commandEffect_errorRegisters {i : Instr} {s t : State} (h : CommandEffect i s t)
    (hphase : s.phase = .faulted ∨ t.phase ≠ .faulted) :
    t.errCode = s.errCode ∧ t.errCmd = s.errCmd := by
  cases h with
  | ignored => exact ⟨rfl, rfl⟩
  | raised e hp he => simp [hp] at hphase
  | ended => exact ⟨rfl, rfl⟩
  | configured hi hp hsize hcap h =>
    obtain ⟨-, -, hcode, hcmd, -⟩ := performConfigure_writes h
    exact ⟨hcode, hcmd⟩
  | accessed hi hp hmax h =>
    obtain ⟨-, hcode, hcmd, -⟩ := performAccess_frame h
    exact ⟨hcode, hcmd⟩

/-- Settles O47: the fault entry alone writes the error registers, and the invariant ties `err_code` to
the phase. -/
theorem firstErrorIsKept : Obligations.FirstErrorIsKept := by
  refine ⟨fun s t hrst h => ?_, fun s t hs h => ?_, rfl, rfl⟩
  · exact step_noReset_induction
      (P := fun s t => s.phase = .faulted ∨ t.phase ≠ .faulted →
        t.errCode = s.errCode ∧ t.errCmd = s.errCmd) hrst h (fun _ => ⟨rfl, rfl⟩)
      fun _ => commandEffect_errorRegisters (s := { s with inputs := s.inputs.tail })
  · obtain ⟨-, ⟨hfault, -⟩, -⟩ := step_inv hs h
    exact hfault

end Sys2Proof.Machine
end

section
/-! SUPPORT. What a command does not depend on (spec 20_memory.md R34, R38): the host's coming samples,
and the offset of an access. -/

namespace Sys2Proof.Machine

/-- An outcome with its next state, if it has one, changed by `f`. -/
def mapNext (f : State → State) : Host.Outcome State Fault Refusal → Host.Outcome State Fault Refusal
  | .next t => .next (f t)
  | .fault e => .fault e
  | .refused e => .refused e

@[simp] theorem mapNext_next (f : State → State) (t : State) : mapNext f (.next t) = .next (f t) := rfl

/-! ### The command of an access (R88) -/

theorem exec_accessOf (k : AccessKind) (a : Addr) (s : State) :
    exec (accessOf k a) s = accessCommand k a (encode (accessOf k a)) s := by
  cases k <;> rfl

theorem exec_accessOf_of_canAccess {s : State} (h : s.CanAccess) (k : AccessKind) (a : Addr) :
    exec (accessOf k a) s = performAccess k a s := by
  obtain ⟨hp, hend⟩ := h
  have hmax : s.stats.accesses ≠ counterMax := fun heq => hend (congrArg BitVec.toNat heq)
  simp only [exec_accessOf, accessCommand, hp, if_neg hmax]

/-! ### The offset (R12, R34) -/

section
variable {s : State} (hr : s.RegistersDerived) {a a' : Addr} (hblock : a.toNat / 64 = a'.toNat / 64)

include hblock in
/-- R56: the index is taken from the block number. -/
theorem indexOf_eq_of_sameBlock : s.indexOf a = s.indexOf a' := by
  simp only [State.indexOf, hblock]

include hblock in
/-- R56: the tag is taken from the block number. -/
theorem tagOf_eq_of_sameBlock : s.tagOf a = s.tagOf a' := by
  simp only [State.tagOf, Nat.pow_add, ← Nat.div_div_eq_div_mul, Nat.reducePow, hblock]

include hr hblock in
theorem decodeAddress_of_sameBlock :
    decodeAddress a' s.fields =
      { decodeAddress a s.fields with offset := (decodeAddress a' s.fields).offset } := by
  have hindex : (decodeAddress a' s.fields).index = (decodeAddress a s.fields).index :=
    BitVec.eq_of_toNat_eq (by
      rw [decodeAddress_index_toNat hr, decodeAddress_index_toNat hr, indexOf_eq_of_sameBlock hblock])
  have htag : (decodeAddress a' s.fields).tag = (decodeAddress a s.fields).tag :=
    BitVec.eq_of_toNat_eq (by
      rw [decodeAddress_tag_toNat hr, decodeAddress_tag_toNat hr, tagOf_eq_of_sameBlock hblock])
  exact congrArg₂ (AddressParts.mk _) hindex htag

end

/-- R71, R78: neither engine reads the offset. -/
theorem lookupOrInstall_with_offset (b : BankId) (p : AddressParts) (o : BitVec 32) (s : State) :
    lookupOrInstall b { p with offset := o } s = lookupOrInstall b p s := rfl

/-- The state with another `resp_offset`. -/
def State.withRespOffset (s : State) (o : BitVec 6) : State :=
  { s with resp := { s.resp with offset := o } }

/-- R34: accesses to two addresses of one block have the same outcome but for `resp_offset`. -/
theorem performAccess_of_sameBlock {s : State} (hr : s.RegistersDerived) (k : AccessKind)
    {a a' : Addr} (hblock : a.toNat / 64 = a'.toNat / 64) :
    performAccess k a' s =
      mapNext (·.withRespOffset (BitVec.ofNat 6 (a'.toNat % 64))) (performAccess k a s) := by
  have hoff : BitVec.ofNat 6 (a'.toNat % 64) = (decodeAddress a' s.fields).offset.setWidth 6 := by
    rw [← decodeAddress_offset_toNat hr a', BitVec.ofNat_toNat]
  rw [hoff]
  simp only [performAccess, process]
  rw [decodeAddress_of_sameBlock hr hblock, lookupOrInstall_with_offset]
  cases lookupOrInstall (bankOf s.cfg.org k) (decodeAddress a s.fields) s with
  | error => rfl
  | ok => rfl

/-! ### The host's coming samples (R38)

Each operation of a command commutes with `State.withInputs`. -/

/-- The state with other port samples to come. -/
def State.withInputs (s : State) (ins : List PortSample) : State := { s with inputs := ins }

section
variable (ins : List PortSample) (b : BankId) (tag : Tag) (s : State)

@[simp] theorem withInputs_phase : (s.withInputs ins).phase = s.phase := rfl

@[simp] theorem withInputs_cfg : (s.withInputs ins).cfg = s.cfg := rfl

@[simp] theorem withInputs_fields : (s.withInputs ins).fields = s.fields := rfl

@[simp] theorem withInputs_stats : (s.withInputs ins).stats = s.stats := rfl

@[simp] theorem withInputs_params : (s.withInputs ins).params = s.params := rfl

@[simp] theorem withInputs_inBank (i : Nat) : (s.withInputs ins).inBank b i = s.inBank b i := rfl

@[simp] theorem withInputs_bank : (s.withInputs ins).bank b = s.bank b := rfl

@[simp] theorem withInputs_ringLength : (s.withInputs ins).ringLength = s.ringLength := rfl

theorem withInputs_setBank (bk : Bank) :
    (s.withInputs ins).setBank b bk = (s.setBank b bk).withInputs ins := by
  cases b <;> rfl

theorem dmLookupOrInstall_withInputs (index : Nat) :
    dmLookupOrInstall b index tag (s.withInputs ins) =
      (dmLookupOrInstall b index tag s).map (Prod.map id (·.withInputs ins)) := by
  cases hin : s.inBank b index with
  | false => simp only [dmLookupOrInstall, bankRead_not_inBank, withInputs_inBank, hin, Except.map]
  | true =>
    have hin' : (s.withInputs ins).inBank b index = true := hin
    rw [dmLookupOrInstall_of_inBank tag hin, dmLookupOrInstall_of_inBank tag hin', withInputs_bank,
      withInputs_setBank]
    split
    · rfl
    · split <;> rfl

theorem faScan_withInputs (n k : Nat) : faScan (s.withInputs ins) b tag n k = faScan s b tag n k := by
  induction n generalizing k with
  | zero => rfl
  | succ n ih => simp only [faScan, ih]; rfl

theorem faContains_withInputs : faContains b tag (s.withInputs ins) = faContains b tag s := by
  simp only [faContains, faScan_withInputs, withInputs_bank, withInputs_ringLength]

theorem faInstall_withInputs :
    faInstall b tag (s.withInputs ins) =
      (faInstall b tag s).map (Prod.map id (·.withInputs ins)) := by
  cases hin : s.inBank b (s.bank b).end_.toNat with
  | false =>
    have hin' : (s.withInputs ins).inBank b ((s.withInputs ins).bank b).end_.toNat = false := hin
    rw [faInstall_not_inBank tag hin, faInstall_not_inBank tag hin']
    rfl
  | true =>
    have hin' : (s.withInputs ins).inBank b ((s.withInputs ins).bank b).end_.toNat = true := hin
    rw [faInstall_of_inBank tag hin, faInstall_of_inBank tag hin', withInputs_setBank]
    rfl

theorem faLookupOrInstall_withInputs :
    faLookupOrInstall b tag (s.withInputs ins) =
      (faLookupOrInstall b tag s).map (Prod.map id (·.withInputs ins)) := by
  simp only [faLookupOrInstall, faContains_withInputs, faInstall_withInputs]
  cases faContains b tag s with
  | error => rfl
  | ok found =>
    cases found with
    | true => rfl
    | false => cases faInstall b tag s <;> rfl

theorem lookupOrInstall_withInputs (p : AddressParts) :
    lookupOrInstall b p (s.withInputs ins) =
      (lookupOrInstall b p s).map (Prod.map id (·.withInputs ins)) := by
  simp only [lookupOrInstall, withInputs_cfg]
  cases s.cfg.mapping with
  | directMapped => exact dmLookupOrInstall_withInputs ins b _ s _
  | fullyAssociative => exact faLookupOrInstall_withInputs ins b _ s

theorem recordOutcome_withInputs (r : LookupResult) :
    recordOutcome r (s.withInputs ins) = (recordOutcome r s).withInputs ins := by
  rcases r with ⟨_ | _, _ | _⟩ <;> rfl

theorem performAccess_withInputs (k : AccessKind) (a : Addr) :
    performAccess k a (s.withInputs ins) = mapNext (·.withInputs ins) (performAccess k a s) := by
  simp only [performAccess, process, withInputs_cfg, withInputs_fields, lookupOrInstall_withInputs]
  cases lookupOrInstall (bankOf s.cfg.org k) (decodeAddress a s.fields) s with
  | error => rfl
  | ok ru =>
    obtain ⟨r, u⟩ := ru
    simp only [Except.map, Prod.map, id, recordOutcome_withInputs]
    rfl

theorem accessCommand_withInputs (k : AccessKind) (a : Addr) (w : CmdWord) :
    accessCommand k a w (s.withInputs ins) = mapNext (·.withInputs ins) (accessCommand k a w s) := by
  simp only [accessCommand, withInputs_phase, withInputs_stats, performAccess_withInputs]
  cases s.phase with
  | unconfigured => rfl
  | running => dsimp only; split <;> rfl
  | ended => rfl
  | faulted => rfl

theorem performConfigure_withInputs (size : BitVec 16) (m : Mapping) (o : Organization) :
    performConfigure size m o (s.withInputs ins) =
      mapNext (·.withInputs ins) (performConfigure size m o s) := by
  simp only [performConfigure]
  cases computeFields (bankLengthOf size o) m <;> rfl

theorem execConfigure_withInputs (size : BitVec 16) (m : Mapping) (o : Organization)
    (rsv : BitVec 14) :
    execConfigure size m o rsv (s.withInputs ins) =
      mapNext (·.withInputs ins) (execConfigure size m o rsv s) := by
  simp only [execConfigure, configureUnconfigured, withInputs_phase, withInputs_params,
    performConfigure_withInputs]
  cases s.phase with
  | unconfigured =>
    dsimp only
    split
    · rfl
    · split <;> rfl
  | running => rfl
  | ended => rfl
  | faulted => rfl

theorem execEndTrace_withInputs (z : BitVec 32) :
    execEndTrace z (s.withInputs ins) = mapNext (·.withInputs ins) (execEndTrace z s) := by
  simp only [execEndTrace, withInputs_phase]
  cases s.phase with
  | unconfigured => rfl
  | running => dsimp only; split <;> rfl
  | ended => rfl
  | faulted => rfl

theorem reservedCommand_withInputs (w : CmdWord) :
    reservedCommand w (s.withInputs ins) = mapNext (·.withInputs ins) (reservedCommand w s) := by
  simp only [reservedCommand, withInputs_phase]
  cases s.phase <;> rfl

/-- R38: with other samples to come a command has the same outcome but for them. -/
theorem exec_withInputs (i : Instr) :
    exec i (s.withInputs ins) = mapNext (·.withInputs ins) (exec i s) := by
  cases i with
  | configure => exact execConfigure_withInputs ins s _ _ _ _
  | accessI => exact accessCommand_withInputs ins s _ _ _
  | accessD => exact accessCommand_withInputs ins s _ _ _
  | endTrace => exact execEndTrace_withInputs ins s _
  | _ => exact reservedCommand_withInputs ins s _

end

/-- No command writes the build's parameters or the coming samples. -/
theorem commandEffect_params_inputs {i : Instr} {s t : State} (h : CommandEffect i s t) :
    t.params = s.params ∧ t.inputs = s.inputs := by
  cases h with
  | ignored => exact ⟨rfl, rfl⟩
  | raised => exact ⟨rfl, rfl⟩
  | ended => exact ⟨rfl, rfl⟩
  | configured hi hp hsize hcap h =>
    obtain ⟨f, -, rfl⟩ := performConfigure_next h
    exact ⟨rfl, rfl⟩
  | accessed hi hp hmax h =>
    obtain ⟨r, bk, -, rfl⟩ := performAccess_next h
    simp

end Sys2Proof.Machine
end

section
/-! SUPPORT. The statements about memory (spec 20_memory.md): a step always answers, and what a command
does not depend on. -/

namespace Sys2Proof.Machine

/-- Settles O51: under the invariant an access finds its slot in range, a CONFIGURE that passes its checks
has at most 6 index bits, and every other outcome is a next state as it stands. -/
theorem noStepStops : Obligations.NoStepStops := fun _ hs => step_answers hs

/-- Settles O11: every operation of a command commutes with a change of the coming samples. -/
theorem commandsDoNotSeeLaterInputs : Obligations.CommandsDoNotSeeLaterInputs := by
  intro i s t ins h
  obtain ⟨hparams, hinputs⟩ := commandEffect_params_inputs (exec_effect h)
  have hother := exec_withInputs ins s i
  rw [h, mapNext_next] at hother
  exact ⟨hparams, hinputs, hother⟩

/-- Settles O40: index and tag are taken from the block number, and the engines read nothing else of the
address. -/
theorem offsetTakesNoPart : Obligations.OffsetTakesNoPart := by
  intro k a a' s t hs hcan hblock h
  obtain ⟨hr, -⟩ := configured_of_inv hs hcan.1
  rw [exec_accessOf_of_canAccess hcan] at h ⊢
  rw [performAccess_of_sameBlock hr k hblock, h]
  rfl

end Sys2Proof.Machine
end

section
/-! SUPPORT. The encoder and the decoder (spec 30_encoding.md R46 to R51, R60): the word of a command by
plain arithmetic, and what the decoder reads from the two fields of the frame. -/

namespace Sys2Proof.Machine

open Sys2Proof.Laws

/-! ### The frame (R46) -/

theorem append_toNat {m n : Nat} (x : BitVec m) (y : BitVec n) :
    (x ++ y).toNat = x.toNat * 2 ^ n + y.toNat := by
  rw [BitVec.toNat_append, ← Nat.shiftLeft_add_eq_or_of_lt y.isLt, Nat.shiftLeft_eq]

theorem encode_toNat (i : Instr) :
    (encode i).toNat = i.opcode.toNat * 2 ^ 32 + i.payload.toNat := append_toNat _ _

@[simp] theorem opField_encode (i : Instr) : opField (encode i) = i.opcode := opField_append _ _

@[simp] theorem payloadField_encode (i : Instr) : payloadField (encode i) = i.payload :=
  payloadField_append _ _

/-- A word is its two fields. -/
theorem opField_append_payloadField (w : CmdWord) : opField w ++ payloadField w = w :=
  BitVec.extractLsb'_append_extractLsb'

/-! ### The payload of CONFIGURE (R48, R54, R55) -/

theorem mapping_toBit_toNat (m : Mapping) : m.toBit.toNat = if m = .fullyAssociative then 1 else 0 := by
  cases m <;> rfl

theorem organization_toBit_toNat (o : Organization) : o.toBit.toNat = if o = .split then 1 else 0 := by
  cases o <;> rfl

theorem mapping_toBit_ofBit (b : Bool) : (Mapping.ofBit b).toBit.toNat = b.toNat := by
  cases b <;> rfl

theorem organization_toBit_ofBit (b : Bool) : (Organization.ofBit b).toBit.toNat = b.toNat := by
  cases b <;> rfl

theorem mapping_ofBit_eq_iff (b : Bool) (m : Mapping) :
    Mapping.ofBit b = m ↔ b.toNat = m.toBit.toNat := by
  cases b <;> cases m <;> decide

theorem organization_ofBit_eq_iff (b : Bool) (o : Organization) :
    Organization.ofBit b = o ↔ b.toNat = o.toBit.toNat := by
  cases b <;> cases o <;> decide

theorem getLsbD_toNat {n : Nat} (x : BitVec n) (k : Nat) :
    (x.getLsbD k).toNat = x.toNat / 2 ^ k % 2 := by
  rw [BitVec.getLsbD, Nat.toNat_testBit]

/-- R48: the places of CONFIGURE's four fields. -/
theorem configure_payload_toNat (size : BitVec 16) (m : Mapping) (o : Organization) (rsv : BitVec 14) :
    (Instr.configure size m o rsv).payload.toNat =
      rsv.toNat * 2 ^ 18 + o.toBit.toNat * 2 ^ 17 + m.toBit.toNat * 2 ^ 16 + size.toNat := by
  simp only [Instr.payload, append_toNat]
  omega

/-- R55, R60: decoding keeps CONFIGURE's four fields. -/
theorem decodeConfigure_payload (size : BitVec 16) (m : Mapping) (o : Organization)
    (rsv : BitVec 14) :
    decodeConfigure (Instr.configure size m o rsv).payload = .configure size m o rsv := by
  have hsize := size.isLt
  have hm := m.toBit.isLt
  have ho := o.toBit.isLt
  have hrsv := rsv.isLt
  simp only [decodeConfigure, Instr.configure.injEq, mapping_ofBit_eq_iff,
    organization_ofBit_eq_iff, getLsbD_toNat, BitVec.toNat_eq, BitVec.extractLsb'_toNat,
    Nat.shiftRight_eq_div_pow, configure_payload_toNat]
  omega

/-- R48, R55: decoding loses no bit of CONFIGURE's payload. -/
theorem payload_decodeConfigure (p : Payload) : (decodeConfigure p).payload = p := by
  have hp := p.isLt
  apply BitVec.eq_of_toNat_eq
  simp only [decodeConfigure, configure_payload_toNat, mapping_toBit_ofBit,
    organization_toBit_ofBit, getLsbD_toNat, BitVec.extractLsb'_toNat, Nat.shiftRight_eq_div_pow]
  omega

/-! ### The round trip (R60) -/

theorem decodeCmd_encode (i : Instr) : decodeCmd (encode i) = i := by
  simp only [decodeCmd, opField_encode, payloadField_encode]
  cases i with
  | configure size m o rsv => exact decodeConfigure_payload size m o rsv
  | _ => rfl

theorem opcode_decodeCmd (w : CmdWord) : (decodeCmd w).opcode = opField w := by
  have hop := (opField w).isLt
  apply BitVec.eq_of_toNat_eq
  unfold decodeCmd
  interval_cases (opField w).toNat <;> rfl

theorem payload_decodeCmd (w : CmdWord) : (decodeCmd w).payload = payloadField w := by
  unfold decodeCmd
  split
  case h_2 => exact payload_decodeConfigure _
  all_goals rfl

theorem encode_decodeCmd (w : CmdWord) : encode (decodeCmd w) = w := by
  rw [encode, opcode_decodeCmd, payload_decodeCmd, opField_append_payloadField]

/-! ### Numbers as words (R46) -/

theorem decodeTableWord_eq (nbits w : Nat) :
    decodeTableWord nbits w =
      if w < 2 ^ 36 ∧ w < 2 ^ nbits then some (decodeCmd (BitVec.ofNat 36 w)) else none := by
  by_cases h : w < 2 ^ 36 ∧ w < 2 ^ nbits
  · simp only [decodeTableWord, decodeNat, if_pos h]
  · simp only [decodeTableWord, decodeNat, if_neg h]

theorem decodeTableWord_eq_some_iff (nbits w : Nat) (i : Instr) :
    decodeTableWord nbits w = some i ↔
      (w < 2 ^ 36 ∧ w < 2 ^ nbits) ∧ decodeCmd (BitVec.ofNat 36 w) = i := by
  simp only [decodeTableWord_eq, Option.ite_none_right_eq_some, Option.some.injEq]

end Sys2Proof.Machine
end

section
/-! SUPPORT. What the ports do with a command and show of the state (spec 30_encoding.md R44, R45, R52 to
R54; 60_exceptions.md R104). -/

namespace Sys2Proof.Machine

/-! ### The command port (R45) -/

theorem step_offerCommand {s : State} {w : CmdWord} {rest : List PortSample}
    (h : s.inputs = offerCommand w :: rest) :
    step s = exec (decodeCmd w) { s with inputs := rest } := by
  simp only [step, h, takeSample, offerCommand, Bool.false_eq_true, if_false, if_true]

/-- R104: FAULTED ignores every command. -/
theorem exec_of_faulted {i : Instr} {s t : State} (hp : s.phase = .faulted)
    (h : exec i s = .next t) : t = s := by
  cases exec_effect h with
  | ignored => rfl
  | raised e hne => exact absurd hp hne
  | configured hi hp' => cases hp.symm.trans hp'
  | accessed hi hp' => cases hp.symm.trans hp'
  | ended hi hp' => cases hp.symm.trans hp'

/-! ### The response registers (R24, R52) -/

theorem canAccess_of_ne_counterMax {s : State} (hp : s.phase = .running)
    (hmax : s.stats.accesses ≠ counterMax) : s.CanAccess :=
  ⟨hp, fun h => hmax (BitVec.eq_of_toNat_eq h)⟩

/-- Only an access that can be performed writes the response registers. -/
theorem commandEffect_resp {i : Instr} {s t : State} (h : CommandEffect i s t)
    (hno : ¬ s.CanAccess ∨ ∀ k a, i ≠ accessOf k a) : t.resp = s.resp := by
  cases h with
  | ignored => rfl
  | raised => rfl
  | ended => rfl
  | configured hi hp hsize hcap h =>
    obtain ⟨-, -, -, -, hresp⟩ := performConfigure_writes h
    exact hresp
  | accessed hi hp hmax h =>
    obtain hcan | hne := hno
    · exact absurd (canAccess_of_ne_counterMax hp hmax) hcan
    · exact absurd hi (hne _ _)

/-- R52: `resp_index` holds the whole index, which has at most 6 bits. -/
theorem indexOf_lt_64 {s : State} (hr : s.RegistersDerived) (a : Addr) : s.indexOf a < 64 := by
  cases hm : s.cfg.mapping with
  | directMapped => exact Nat.lt_of_lt_of_le (indexOf_lt hr a hm) (bankLength_le hr)
  | fullyAssociative =>
    obtain ⟨-, -, -, -, hib, -⟩ := hr
    simp [State.indexOf, hib, hm, Nat.mod_one]

/-- R52: what a completed access leaves in the response registers, as numbers. -/
theorem afterAccess_resp {s : State} (hr : s.RegistersDerived) (k : AccessKind) (a : Addr) (b : BankId)
    (bk : Bank) (r : LookupResult) :
    (s.afterAccess k a b bk r).resp.valid = true ∧ (s.afterAccess k a b bk r).resp.kind = k ∧
      (s.afterAccess k a b bk r).resp.offset.toNat = a.toNat % 64 ∧
      (s.afterAccess k a b bk r).resp.index.toNat = s.indexOf a ∧
      (s.afterAccess k a b bk r).resp.tag.toNat = s.tagOf a :=
  ⟨rfl, rfl, Nat.mod_mod _ _, Nat.mod_eq_of_lt (indexOf_lt_64 hr a), ofNat_tagOf_toNat hr a⟩

/-! ### The output ports (R53, R54) -/

theorem ofBool_eq_one_iff (b : Bool) : BitVec.ofBool b = 1 ↔ b = true := by
  cases b <;> decide

/-! ### A trace file (R59) -/

/-- A trace that assembles is one line that reads as a record and a trace that assembles. -/
theorem assembleTrace_cons {line : List Char} {lines : List (List Char)} {cmds : List Instr}
    (h : assembleTrace (line :: lines) = .ok cmds) :
    ∃ r is, traceLine line = .ok r ∧ assembleTrace lines = .ok is ∧ cmds = r.command :: is := by
  unfold assembleTrace at h
  split at h
  · next r is hr his => cases h; exact ⟨r, is, hr, his, rfl⟩
  · cases h
  · cases h

/-- R59: the commands of a trace are its lines' accesses, in order, and one END_TRACE. -/
theorem assembleTrace_ok {lines : List (List Char)} {cmds : List Instr}
    (h : assembleTrace lines = .ok cmds) :
    ∃ records : List AccessRecord, lines.map traceLine = records.map .ok ∧
      cmds = records.map AccessRecord.command ++ [.endTrace 0] := by
  induction lines generalizing cmds with
  | nil => cases h; exact ⟨[], rfl, rfl⟩
  | cons line lines ih =>
    obtain ⟨r, is, hr, his, rfl⟩ := assembleTrace_cons h
    obtain ⟨records, hlines, rfl⟩ := ih his
    exact ⟨r :: records, by simp [hr, hlines], rfl⟩

end Sys2Proof.Machine
end

section
/-! SUPPORT. The statements about the encoding and the ports (spec 30_encoding.md). -/

namespace Sys2Proof.Machine

/-! ### Words and commands -/

/-- Settles O2: the frame gives back opcode and payload, and CONFIGURE's payload its four fields. -/
theorem decodeOfEncode : Obligations.DecodeOfEncode := decodeCmd_encode

/-- Settles O3: decoding keeps the opcode field and the payload field. -/
theorem encodeOfDecode : Obligations.EncodeOfDecode := encode_decodeCmd

/-- Settles O4: the frame is `opcode * 2^32 + payload`. -/
theorem fieldsStandWhereTheFormatsSay : Obligations.FieldsStandWhereTheFormatsSay := by
  refine ⟨fun size m o rsv => ?_, fun a => ⟨encode_toNat _, encode_toNat _⟩, fun z => encode_toNat _,
    fun p => ?_⟩
  · rw [encode_toNat, configure_payload_toNat]
    rw [mapping_toBit_toNat, organization_toBit_toNat]
    change 1 * 2 ^ 32 + _ = _
    split <;> split <;> omega
  · simp only [reservedInstrs, List.map_cons, List.map_nil, encode_toNat]
    rfl

/-- Settles O5: a word that fits is the number's own, and encoding gives it back. -/
theorem tableWordDecodesExactlyIfItFits : Obligations.TableWordDecodesExactlyIfItFits := by
  refine fun nbits w => ⟨fun hw hn => ?_, fun h => ?_⟩
  · refine ⟨_, (decodeTableWord_eq_some_iff nbits w _).2 ⟨⟨hw, hn⟩, rfl⟩, ?_⟩
    rw [encode_decodeCmd, BitVec.toNat_ofNat, Nat.mod_eq_of_lt hw]
  · rw [decodeTableWord_eq, if_neg (by omega)]

/-- Settles O1, by running the decoder on each word. -/
theorem sampleWordsDecode : Obligations.SampleWordsDecode := by
  unfold Obligations.SampleWordsDecode
  decide

/-! ### The ports -/

/-- Settles O6: the word of a command decodes to the command. -/
theorem stepRunsTheOfferedCommand : Obligations.StepRunsTheOfferedCommand :=
  ⟨fun _ _ _ h => step_offerCommand h, fun _ i _ h => by rw [step_offerCommand h, decodeCmd_encode]⟩

/-- Settles O7: a number that decodes fits, so the word placed is the whole number. -/
theorem fetchWordIsRunNext : Obligations.FetchWordIsRunNext := by
  intro s nbits w i h
  obtain ⟨⟨-, hn⟩, rfl⟩ := (decodeTableWord_eq_some_iff nbits w i).1 h
  rw [step_offerCommand (s := s.withFetchWord nbits w) rfl, Nat.mod_eq_of_lt hn]
  rfl

/-- Settles O44: an access that can be performed completes as `State.afterAccess` says, and no other
command writes the response registers. -/
theorem responseWrittenByCompletedAccessOnly : Obligations.ResponseWrittenByCompletedAccessOnly := by
  refine ⟨fun k a s t hs hcan h => ?_, fun i s t h => commandEffect_resp (exec_effect h)⟩
  have hc := configured_of_inv hs hcan.1
  obtain ⟨r, bk, hperform, -⟩ := performAccess_effect hc k a
  rw [exec_accessOf_of_canAccess hcan, hperform] at h
  cases h
  obtain ⟨hr, -⟩ := hc
  exact afterAccess_resp hr k a _ bk r

/-- Settles O55: the ports are read off the state, and outside reset a read shows them. -/
theorem statusOutputsShowTheState : Obligations.StatusOutputsShowTheState := by
  refine fun s => ⟨?_, rfl, rfl, ?_, rfl, rfl, rfl, fun hrst => ?_⟩
  · change s.phase.code.toNat = _
    cases s.phase <;> rfl
  · exact (ofBool_eq_one_iff _).trans beq_iff_eq
  · rw [outputs_of_ready hrst]
    exact ⟨rfl, rfl⟩

/-- Settles O59: outside reset a read shows what the state drives. -/
theorem responseOutputsShowTheState : Obligations.ResponseOutputsShowTheState := by
  intro s hrst
  rw [outputs_of_ready hrst]
  refine ⟨rfl, _, rfl, ofBool_eq_one_iff _, ofBool_eq_one_iff _, ofBool_eq_one_iff _, ?_, rfl, rfl,
    rfl⟩
  change s.resp.kind.toBit.toNat = _
  cases s.resp.kind <;> rfl

/-- Settles O60: `rst` alone decides whether the block is ready, and FAULTED leaves every port as it
was. -/
theorem outputsDefinedOnlyWhileReady : Obligations.OutputsDefinedOnlyWhileReady := by
  refine ⟨fun s => ?_, ⟨rfl, rfl⟩, fun i s t seen hp h hseen => ?_⟩
  · rw [← rstAsserted_iff]
    cases hrst : s.rstAsserted with
    | false => simp [outputs_of_ready hrst]
    | true => simp [outputs_of_reset hrst]
  · rw [exec_of_faulted hp h] at hseen
    exact (oldOrNew_self_iff _ _).1 hseen

/-! ### The assembler -/

/-- Settles O57, by running the assembler on each line. -/
theorem spelledExamplesAssemble : Obligations.SpelledExamplesAssemble := by
  unfold Obligations.SpelledExamplesAssemble
  decide

/-- Settles O58: the records are those the lines read as. -/
theorem traceExpandsLineByLine : Obligations.TraceExpandsLineByLine := by
  intro lines cmds h
  obtain ⟨records, hlines, hcmds⟩ := assembleTrace_ok h
  refine ⟨records, ?_, hcmds, fun i _ => ?_⟩
  · simpa using (congrArg List.length hlines).symm
  · simpa using congrArg (·[i]?) hlines

end Sys2Proof.Machine
end

section
/-! SUPPORT. The address decoder (spec 40_address_decoder.md R62, R65 to R69): the loop of
`count_significant_bits` computes the binary logarithm, an accepted CONFIGURE leaves the derived
registers, and an address is put back together from its fields. -/

namespace Sys2Proof.Machine

/-! ### `count_significant_bits` (R62) -/

/-- With a turn for every unit of `n` the loop does not run out of turns, and counts one for every
halving. -/
theorem countShifts_eq {fuel n : Nat} (c : Nat) (h : n ≤ fuel) :
    countShifts fuel n c = c + Nat.log2 n := by
  induction fuel generalizing n c with
  | zero =>
    obtain rfl := Nat.le_zero.1 h
    rfl
  | succ fuel ih =>
    have hhalf : n >>> 1 = n / 2 := Nat.shiftRight_one n
    rw [countShifts, Nat.log2_def, hhalf]
    split
    · next hn =>
      rw [ih _ (by omega), if_pos (show 2 ≤ n from hn)]
      omega
    · next hn => rw [if_neg (show ¬ 2 ≤ n from hn), Nat.add_zero]

theorem countSignificantBits_eq_log2 (n : Nat) : countSignificantBits n = Nat.log2 n :=
  (countShifts_eq 0 (Nat.le_refl n)).trans (Nat.zero_add _)

theorem one_lt_shiftRight_of_lt_log2 {n c : Nat} (h : c < Nat.log2 n) : 1 < n >>> c := by
  have hn : n ≠ 0 := by rintro rfl; exact absurd h (Nat.not_lt_zero c)
  rw [Nat.shiftRight_eq_div_pow]
  exact (Nat.le_div_iff_mul_le (Nat.two_pow_pos c)).2 (Nat.pow_succ' ▸ (Nat.le_log2 hn).1 h)

theorem shiftRight_log2 {n : Nat} (h : 1 ≤ n) : n >>> Nat.log2 n = 1 := by
  rw [Nat.shiftRight_eq_div_pow]
  exact Nat.div_eq_of_lt_le (by simpa using Nat.log2_self_le (by omega))
    (by simpa [Nat.pow_succ'] using Nat.lt_log2_self)

/-! ### The registers after an accepted CONFIGURE (R65) -/

/-- The only command that leads from UNCONFIGURED to RUNNING is a CONFIGURE that passed its checks. -/
theorem exec_registersDerived {i : Instr} {s t : State} (hp : s.phase = .unconfigured)
    (h : exec i s = .next t) (hrun : t.phase = .running) : t.RegistersDerived := by
  cases exec_effect h with
  | ignored hp' => cases hp.symm.trans hp'
  | raised => cases hrun
  | configured _ _ hsize hcap hperform => exact performConfigure_registersDerived hsize hcap hperform
  | accessed _ hp' => cases hp.symm.trans hp'
  | ended _ hp' => cases hp.symm.trans hp'

theorem fieldWidths_sum {s : State} (hr : s.RegistersDerived) :
    s.fields.offsetBits.toNat + s.fields.indexBits.toNat + s.fields.tagBits.toNat = 32 := by
  obtain ⟨-, -, -, -, -, hsum, -⟩ := hr
  exact hsum

/-! ### The fields put back together (R68, R69) -/

theorem mask_getElem (k : Nat) {i : Nat} (hi : i < 32) : (mask k)[i] = decide (i < k) := by
  rw [← BitVec.getLsbD_eq_getElem, mask, BitVec.getLsbD_ofNat, Nat.testBit_two_pow_sub_one,
    decide_eq_true hi, Bool.true_and]

/-- A word cut in two at bit `k`. -/
theorem shiftLeft_shiftRight_or_mask (x : BitVec 32) (k : Nat) :
    ((x >>> k) <<< k) ||| (x &&& mask k) = x := by
  ext i hi
  by_cases hk : i < k
  · simp [mask_getElem, hk]
  · simp [mask_getElem, hk, hi, Nat.add_sub_cancel' (Nat.le_of_not_lt hk)]

/-- The number of an address's block is its tag and its index put back together. -/
theorem block_eq_tagOf_indexOf (s : State) (a : Addr) :
    2 ^ s.fields.indexBits.toNat * s.tagOf a + s.indexOf a = a.toNat / 64 := by
  simp only [State.tagOf, State.indexOf, Nat.pow_add, ← Nat.div_div_eq_div_mul, Nat.reducePow]
  exact Nat.div_add_mod _ _

section
variable {s : State} (hr : s.RegistersDerived)
include hr

/-- R67: the mask of the tag drops no bit. -/
theorem decodeAddress_tag_eq_shiftRight (a : Addr) :
    (decodeAddress a s.fields).tag =
      a >>> (s.fields.offsetBits.toNat + s.fields.indexBits.toNat) := by
  have ⟨_, _, _, hoff, _⟩ := hr
  apply BitVec.eq_of_toNat_eq
  rw [decodeAddress_tag_toNat hr, hoff, BitVec.toNat_ushiftRight, Nat.shiftRight_eq_div_pow]
  rfl

/-- R69: tag and index are the two parts of the block number, and block number and offset those of the
address. -/
theorem decodeAddress_reassemble (a : Addr) :
    ((decodeAddress a s.fields).tag <<< (s.fields.offsetBits.toNat + s.fields.indexBits.toNat))
      ||| ((decodeAddress a s.fields).index <<< s.fields.offsetBits.toNat)
      ||| (decodeAddress a s.fields).offset = a := by
  rw [decodeAddress_tag_eq_shiftRight hr, Nat.add_comm s.fields.offsetBits.toNat,
    BitVec.shiftLeft_add, ← BitVec.shiftLeft_or_distrib, Nat.add_comm, BitVec.shiftRight_add]
  simp only [decodeAddress, shiftLeft_shiftRight_or_mask]

/-- R69: index and tag together say which block an address lies in. -/
theorem decodeAddress_index_tag_eq_iff (a a' : Addr) :
    (decodeAddress a s.fields).index = (decodeAddress a' s.fields).index ∧
      (decodeAddress a s.fields).tag = (decodeAddress a' s.fields).tag ↔
      a.toNat / 64 = a'.toNat / 64 := by
  constructor
  · rintro ⟨hindex, htag⟩
    have hindexOf : s.indexOf a = s.indexOf a' := by
      rw [← decodeAddress_index_toNat hr, hindex, decodeAddress_index_toNat hr]
    have htagOf : s.tagOf a = s.tagOf a' := by
      rw [← decodeAddress_tag_toNat hr, htag, decodeAddress_tag_toNat hr]
    rw [← block_eq_tagOf_indexOf s, htagOf, hindexOf, block_eq_tagOf_indexOf]
  · intro hblock
    rw [decodeAddress_of_sameBlock hr hblock]
    exact ⟨rfl, rfl⟩

/-- R63, R68: an associative configuration has no index bits, so every index is 0. -/
theorem decodeAddress_index_eq_zero (hm : s.cfg.mapping = .fullyAssociative) (a : Addr) :
    (decodeAddress a s.fields).index = 0 := by
  apply BitVec.eq_of_toNat_eq
  rw [decodeAddress_index_toNat hr]
  obtain ⟨-, -, -, -, hib, -⟩ := hr
  simp [State.indexOf, hib, hm, Nat.mod_one]

end

end Sys2Proof.Machine
end

section
/-! SUPPORT. The statements about the address decoder (spec 40_address_decoder.md). -/

namespace Sys2Proof.Machine

/-- Settles O23: the count is the binary logarithm, and `2^log2 n ≤ n < 2^(log2 n + 1)`. -/
theorem countSignificantBitsIsFloorLog : Obligations.CountSignificantBitsIsFloorLog := by
  intro n hn
  rw [countSignificantBits_eq_log2]
  exact ⟨shiftRight_log2 hn, fun _ => one_lt_shiftRight_of_lt_log2, rfl⟩

/-- Settles O24: the widths are those of the derived registers, which an accepted CONFIGURE writes and
the invariant keeps. -/
theorem fieldWidthsSumTo32 : Obligations.FieldWidthsSumTo32 := by
  refine ⟨fun _ _ _ _ _ _ hp h hrun => fieldWidths_sum (exec_registersDerived hp h hrun), ?_⟩
  rintro s ⟨hphase, -⟩ (hp | hp)
  · obtain ⟨hr, -⟩ := (phaseOk_running hp).1 hphase
    exact fieldWidths_sum hr
  · obtain ⟨hr, -⟩ := (phaseOk_ended hp).1 hphase
    exact fieldWidths_sum hr

/-- Settles O26: the fields are those of `State.indexOf` and `State.tagOf`. -/
theorem decodedFieldsAndRanges : Obligations.DecodedFieldsAndRanges := by
  intro a s hs hp
  obtain ⟨hr, -⟩ := configured_of_inv hs hp
  have hindex := decodeAddress_index_toNat hr a
  have htag := decodeAddress_tag_toNat hr a
  exact ⟨decodeAddress_offset_toNat hr a, hindex, htag,
    hindex ▸ Nat.mod_lt _ (Nat.two_pow_pos _), htag ▸ tagOf_lt hr a, tagBits_le hr,
    two_pow_indexBits hr, fun hm => decodeAddress_index_eq_zero hr hm a⟩

/-- Settles O27: the fields are cut from the address without a gap. -/
theorem decodeLosesNoAddressBit : Obligations.DecodeLosesNoAddressBit := by
  intro a a' s hs hp
  obtain ⟨hr, -⟩ := configured_of_inv hs hp
  exact ⟨(decodeAddress_reassemble hr a).symm, decodeAddress_index_tag_eq_iff hr a a'⟩

/-- Settles O25, by computing each row of the table. -/
theorem configurationTable : Obligations.ConfigurationTable := by
  unfold Obligations.ConfigurationTable
  rfl

end Sys2Proof.Machine
end

section
/-! SUPPORT. The direct-mapped engine on a machine that holds a configuration (spec
41_direct_mapped_bank.md R71): an access by plain arithmetic, its slots, its conflicts (R74) and a run of
accesses. -/

namespace Sys2Proof.Machine

/-! ### One access to a direct-mapped bank (R71) -/

/-- R71's three cases on the bank alone: what an access to slot `i` with `tag` reports and leaves. -/
def Bank.directMappedAccess (bk : Bank) (i : Nat) (tag : Tag) : LookupResult × Bank :=
  if (bk.slot i).valid = false then ({ result := .miss, evicted := false }, bk.holding i tag)
  else if (bk.slot i).tag = tag then ({ result := .hit, evicted := false }, bk)
  else ({ result := .miss, evicted := true }, bk.holding i tag)

theorem dmLookupOrInstall_eq {s : State} {b : BankId} {i : Nat} (tag : Tag)
    (h : s.inBank b i = true) :
    dmLookupOrInstall b i tag s =
      .ok (((s.bank b).directMappedAccess i tag).1,
        s.setBank b ((s.bank b).directMappedAccess i tag).2) := by
  rw [dmLookupOrInstall_of_inBank tag h, Bank.directMappedAccess]
  split
  · rfl
  · split
    · rw [setBank_bank_eq]
    · rfl

section
variable (bk : Bank) {i j : Nat} (tag : Tag)

theorem holding_slot_self (hi : i < slotsPerBank) :
    (bk.holding i tag).slot i = { tag := tag, valid := true } :=
  writeSlot_slot_self bk i _ hi

theorem holding_slot_of_ne (h : j ≠ i) : (bk.holding i tag).slot j = bk.slot j :=
  writeSlot_slot_of_ne bk i j _ h

variable {bk tag}

theorem directMappedAccess_of_invalid (hv : (bk.slot i).valid = false) :
    bk.directMappedAccess i tag =
      ({ result := .miss, evicted := false }, bk.holding i tag) := by
  rw [Bank.directMappedAccess, if_pos hv]

theorem directMappedAccess_of_tag_eq (hv : (bk.slot i).valid = true) (ht : (bk.slot i).tag = tag) :
    bk.directMappedAccess i tag = ({ result := .hit, evicted := false }, bk) := by
  rw [Bank.directMappedAccess, if_neg (by simp [hv]), if_pos ht]

theorem directMappedAccess_of_tag_ne (hv : (bk.slot i).valid = true) (ht : (bk.slot i).tag ≠ tag) :
    bk.directMappedAccess i tag = ({ result := .miss, evicted := true }, bk.holding i tag) := by
  rw [Bank.directMappedAccess, if_neg (by simp [hv]), if_neg ht]

/-- R71: in each of the three cases the slot then holds the tag, valid. -/
theorem directMappedAccess_slot_self (hi : i < slotsPerBank) :
    (bk.directMappedAccess i tag).2.slot i = { tag := tag, valid := true } := by
  unfold Bank.directMappedAccess
  split
  · exact holding_slot_self bk tag hi
  · next hv =>
    split
    · next ht =>
      have hv' : (bk.slot i).valid = true := by simpa using hv
      rw [← ht, ← hv']
    · exact holding_slot_self bk tag hi

theorem directMappedAccess_slot_of_ne (h : j ≠ i) :
    (bk.directMappedAccess i tag).2.slot j = bk.slot j := by
  unfold Bank.directMappedAccess
  split
  · exact holding_slot_of_ne bk tag h
  · split
    · rfl
    · exact holding_slot_of_ne bk tag h

end

/-! ### One access to a direct-mapped machine (R88, R89) -/

/-- The state a completed access to a direct-mapped machine leaves. -/
def State.afterDirectMapped (s : State) (k : AccessKind) (a : Addr) : State :=
  let access :=
    (s.bank (s.bankFor k)).directMappedAccess (s.indexOf a) (BitVec.ofNat 26 (s.tagOf a))
  s.afterAccess k a (s.bankFor k) access.2 access.1

/-- R71, R88: an access that can be performed on a direct mapping completes. -/
theorem exec_directMapped {s : State} (hs : s.Inv) (hcan : s.CanAccess)
    (hm : s.cfg.mapping = .directMapped) (k : AccessKind) (a : Addr) :
    exec (accessOf k a) s = .next (s.afterDirectMapped k a) := by
  obtain ⟨hr, -⟩ := configured_of_inv hs hcan.1
  have hin := inBank_bankFor hr k (indexOf_lt hr a hm)
  rw [exec_accessOf_of_canAccess hcan]
  simp only [performAccess, process, lookupOrInstall, hm, bankOf_eq_bankFor,
    decodeAddress_index_toNat hr, decodeAddress_tag26 hr, dmLookupOrInstall_eq _ hin,
    respond_recordOutcome_eq hr]
  rfl

theorem exec_inv {i : Instr} {s t : State} (hs : s.Inv) (h : exec i s = .next t) : t.Inv :=
  commandEffect_inv hs (exec_effect h)

section
variable (s : State) (k : AccessKind) (a : Addr)

theorem afterDirectMapped_accesses_toNat (h : s.stats.accesses.toNat + 1 < 2 ^ 64) :
    (s.afterDirectMapped k a).stats.accesses.toNat = s.stats.accesses.toNat + 1 :=
  counter_toNat_add_one h

@[simp] theorem afterDirectMapped_tagOf (a' : Addr) :
    (s.afterDirectMapped k a).tagOf a' = s.tagOf a' := rfl

variable {s}

/-- R71, R86: an access leaves the tag, valid, in the slot of its bank and index, and every other slot as
it was. -/
theorem afterDirectMapped_slot (hr : s.RegistersDerived) (b : BankId) (j : Nat) :
    ((s.afterDirectMapped k a).bank b).slot j =
      if s.bankFor k = b ∧ s.indexOf a = j then
        { tag := BitVec.ofNat 26 (s.tagOf a), valid := true }
      else (s.bank b).slot j := by
  rw [State.afterDirectMapped, afterAccess_bank]
  by_cases hb : b = s.bankFor k
  · subst hb
    by_cases hj : s.indexOf a = j
    · subst hj
      simp [directMappedAccess_slot_self (indexOf_lt_64 hr a)]
    · simp [directMappedAccess_slot_of_ne (Ne.symm hj), hj]
  · simp [hb, Ne.symm hb]

end

theorem canAccess_of_lt {s : State} (hp : s.phase = .running)
    (hlt : s.stats.accesses.toNat + 1 < 2 ^ 64) : s.CanAccess := ⟨hp, by omega⟩

theorem ne_counterMax_of_canAccess {s : State} (hcan : s.CanAccess) :
    s.stats.accesses ≠ counterMax := by
  obtain ⟨-, hend⟩ := hcan
  exact fun heq => hend (congrArg BitVec.toNat heq)

/-! ### Two tags of one index (R74) -/

/-- The slot of an access's bank and index is valid and holds another tag. -/
def State.Conflicts (s : State) (k : AccessKind) (a : Addr) : Prop :=
  ∃ tag : Tag, (s.bank (s.bankFor k)).slot (s.indexOf a) = { tag := tag, valid := true } ∧
    tag ≠ BitVec.ofNat 26 (s.tagOf a)

/-- An access to one address makes every other tag of its index conflict. -/
theorem afterDirectMapped_conflicts {s : State} (hr : s.RegistersDerived) (k : AccessKind)
    {a a' : Addr} (hindex : s.indexOf a = s.indexOf a') (htag : s.tagOf a ≠ s.tagOf a') :
    (s.afterDirectMapped k a).Conflicts k a' := by
  refine ⟨BitVec.ofNat 26 (s.tagOf a), ?_, fun heq => htag ?_⟩
  · rw [afterDirectMapped_slot k a hr]
    exact if_pos ⟨rfl, hindex⟩
  · rw [← ofNat_tagOf_toNat hr a, heq]
    exact ofNat_tagOf_toNat hr a'

/-- R71: an access that finds another tag misses and evicts. -/
theorem afterDirectMapped_of_conflicts {s : State} (hs : s.Inv) (hcan : s.CanAccess) {k : AccessKind}
    {a : Addr} (h : s.Conflicts k a) :
    (s.afterDirectMapped k a).resp.hit = false ∧ (s.afterDirectMapped k a).resp.evict = true ∧
      (s.afterDirectMapped k a).stats.evicts.toNat = s.stats.evicts.toNat + 1 ∧
      (s.afterDirectMapped k a).stats.hits = s.stats.hits := by
  obtain ⟨tag, hslot, hne⟩ := h
  have hmax := ne_counterMax_of_canAccess hcan
  rw [State.afterDirectMapped, directMappedAccess_of_tag_ne (by rw [hslot]) (by rw [hslot]; exact hne)]
  obtain ⟨-, -, hevicts⟩ := afterAccess_counters (countersOk_of_inv hs) hmax k a (s.bankFor k)
    ((s.bank (s.bankFor k)).holding (s.indexOf a) (BitVec.ofNat 26 (s.tagOf a)))
    { result := .miss, evicted := true }
  exact ⟨rfl, rfl, hevicts, rfl⟩

/-! ### A run of accesses (R119) -/

/-- A step that is offered a command performs it and keeps the samples that follow. -/
theorem step_offered {i : Instr} {s t : State} (h : exec i s = .next t) (rest : List PortSample) :
    step { s with inputs := offerCommand (encode i) :: rest } = .next { t with inputs := rest } := by
  have hother := exec_withInputs rest s i
  rw [h, mapNext_next] at hother
  rw [step_offerCommand rfl, decodeCmd_encode]
  exact hother

/-- A run that is offered a command performs it and goes on with the commands that follow. -/
theorem run_offerAll_cons {i : Instr} {s t : State} (h : exec i s = .next t) (is : List Instr)
    (n : Nat) :
    Sys2Proof.core.run (n + 1) { s with inputs := offerAll (i :: is) } =
      Sys2Proof.core.run n { t with inputs := offerAll is } :=
  run_succ_of_step Sys2Proof.core n (step_offered h (offerAll is))

/-- An access goes to slot `j` of bank `b`. -/
def State.goesTo (s : State) (b : BankId) (j : Nat) (r : AccessRecord) : Bool :=
  s.bankFor r.kind == b && s.indexOf r.address == j

/-- The slot `j` of bank `b` after some accesses, the latest of which decides (R74 (iii)). -/
def State.latestSlot (s : State) (records : List AccessRecord) (b : BankId) (j : Nat) : CacheBlock :=
  match records.reverse.find? (s.goesTo b j) with
  | some r => { tag := BitVec.ofNat 26 (s.tagOf r.address), valid := true }
  | none => (s.bank b).slot j

/-- The latest of a first access and some more is the latest of those more, read on the state the first
one leaves. -/
theorem latestSlot_cons {s : State} (hr : s.RegistersDerived) (r : AccessRecord)
    (records : List AccessRecord) (b : BankId) (j : Nat) :
    s.latestSlot (r :: records) b j =
      (s.afterDirectMapped r.kind r.address).latestSlot records b j := by
  have hgoes : (s.afterDirectMapped r.kind r.address).goesTo b j = s.goesTo b j := rfl
  simp only [State.latestSlot, List.reverse_cons, List.find?_append, hgoes,
    afterDirectMapped_slot r.kind r.address hr, afterDirectMapped_tagOf]
  cases records.reverse.find? (s.goesTo b j) with
  | some r' => rfl
  | none =>
    by_cases hto : s.bankFor r.kind = b ∧ s.indexOf r.address = j <;>
      simp [State.goesTo, hto]

/-- R74 (iii), by induction on the accesses: each is performed and leaves a state of the same
configuration. -/
theorem run_directMapped (records : List AccessRecord) {s : State} (hs : s.Inv)
    (hp : s.phase = .running) (hm : s.cfg.mapping = .directMapped)
    (hlt : s.stats.accesses.toNat + records.length < 2 ^ 64) :
    ∃ t, Sys2Proof.core.run records.length
        { s with inputs := offerAll (records.map AccessRecord.command) } = .next t ∧
      ∀ (b : BankId) (j : Nat), (t.bank b).slot j = s.latestSlot records b j := by
  induction records generalizing s with
  | nil => exact ⟨_, rfl, fun b j => by cases b <;> rfl⟩
  | cons r records ih =>
    rw [List.length_cons] at hlt
    have hexec := exec_directMapped hs (canAccess_of_lt hp (by omega)) hm r.kind r.address
    have hacc := afterDirectMapped_accesses_toNat s r.kind r.address (by omega)
    obtain ⟨hr, -⟩ := configured_of_inv hs hp
    obtain ⟨t, hrun, hslots⟩ := ih (exec_inv hs hexec) hp hm (by omega)
    refine ⟨t, (run_offerAll_cons hexec _ _).trans hrun, fun b j => ?_⟩
    rw [hslots, latestSlot_cons hr]

end Sys2Proof.Machine
end

section
/-! SUPPORT. A direct-mapped machine of one-slot banks read as an associative one (spec
41_direct_mapped_bank.md R75; 42_associative_bank.md R81). -/

namespace Sys2Proof.Machine

/-! ### One access to a ring (R80) -/

/-- R80's two cases on the bank alone: what an access with `tag` to a ring of length `L` reports and
leaves. -/
def Bank.associativeAccess (bk : Bank) (L : Nat) (tag : Tag) : LookupResult × Bank :=
  if tag ∈ bk.residentTags L then ({ result := .hit, evicted := false }, bk)
  else ({ result := .miss, evicted := bk.isFull }, bk.installed L tag)

theorem faLookupOrInstall_eq {s : State} {b : BankId} (tag : Tag)
    (hb : (s.bank b).RingOk s.bankLength.toNat) (hn : b.number < s.nBanks.toNat)
    (h64 : s.bankLength.toNat ≤ 64) :
    faLookupOrInstall b tag s =
      .ok (((s.bank b).associativeAccess s.bankLength.toNat tag).1,
        s.setBank b ((s.bank b).associativeAccess s.bankLength.toNat tag).2) := by
  have hin : s.inBank b (s.bank b).end_.toNat = true :=
    (inBank_iff s b _).2 ⟨hn, hb.end_lt, Nat.lt_of_lt_of_le hb.end_lt h64⟩
  by_cases hmem : tag ∈ (s.bank b).residentTags s.bankLength.toNat
  · simp only [faLookupOrInstall, faContains_eq tag hb hn h64, Bank.associativeAccess, hmem,
      decide_true, if_true, setBank_bank_eq]
  · simp only [faLookupOrInstall, faContains_eq tag hb hn h64, Bank.associativeAccess, hmem,
      decide_false, if_false, faInstall_of_inBank tag hin, State.ringLength]

/-! ### A bank of one slot -/

/-- A direct-mapped bank of one slot read as a ring: full when the slot is valid (R75). -/
def Bank.asRing (bk : Bank) : Bank := { bk with isFull := (bk.slot 0).valid }

theorem asRing_empty : Bank.empty.asRing = Bank.empty := by
  rw [Bank.asRing, empty_slot]; rfl

section
variable {bk : Bank} {tagBits : Nat} (hb : bk.DirectMappedOk 1 tagBits)
include hb

theorem asRing_filled : bk.asRing.filled 1 = if (bk.slot 0).valid = true then 1 else 0 := by
  obtain ⟨-, hend, -⟩ := hb
  simp [Bank.filled, Bank.asRing, hend]

/-- R27 with one slot gives R28 with one slot. -/
theorem asRing_ringOk : bk.asRing.RingOk 1 := by
  have hfilled := asRing_filled hb
  obtain ⟨hstart, hend, -, hvalid, hinvalid⟩ := hb
  have hle : bk.asRing.filled 1 ≤ 1 := by rw [hfilled]; split <;> omega
  refine ⟨?_, ?_, fun _ => hend.trans hstart.symm, fun _ => hstart, fun j hj => ?_,
    fun i j hi hj _ => by omega, hinvalid⟩
  · simp [Bank.asRing, hstart]
  · simp [Bank.asRing, hend]
  · change (bk.slot j).valid = true ↔ _
    rw [hfilled]
    constructor
    · intro hv
      obtain rfl : j = 0 := Nat.lt_one_iff.1 (hvalid j hj hv).1
      rw [if_pos hv]; exact Nat.one_pos
    · split
      · next hv => intro hlt; rwa [Nat.lt_one_iff.1 hlt]
      · exact fun hlt => absurd hlt (Nat.not_lt_zero j)

/-- R78 on a ring of one slot. -/
theorem mem_asRing_residentTags_iff (tag : Tag) :
    tag ∈ bk.asRing.residentTags 1 ↔ (bk.slot 0).valid = true ∧ (bk.slot 0).tag = tag := by
  rw [mem_residentTags_iff (asRing_ringOk hb), asRing_filled hb]
  change (∃ j, _ ∧ (bk.slot j).tag = tag) ↔ _
  by_cases hv : (bk.slot 0).valid = true <;> simp [hv]

/-- R79 on a ring of one slot: an install fills it, and both cursors come back to 0. -/
theorem asRing_holding (tag : Tag) : (bk.holding 0 tag).asRing = bk.asRing.installed 1 tag := by
  obtain ⟨hstart, hend, -⟩ := hb
  have hzero : advanceCursor 0#6 1 = 0#6 := rfl
  have hslot := holding_slot_self bk tag (by decide : 0 < slotsPerBank)
  simp only [Bank.asRing, hslot]
  simp [Bank.holding, Bank.installed, hstart, hend, hzero, ringFull]

/-- R71, R80 with one slot: the two engines report and leave the same. -/
theorem asRing_associativeAccess (tag : Tag) :
    bk.asRing.associativeAccess 1 tag = (bk.directMappedAccess 0 tag).map id Bank.asRing := by
  have hmem := mem_asRing_residentTags_iff hb tag
  have hinstalled := asRing_holding hb tag
  have hfull : bk.asRing.isFull = (bk.slot 0).valid := rfl
  cases hv : (bk.slot 0).valid with
  | false =>
    rw [directMappedAccess_of_invalid hv, Bank.associativeAccess, if_neg (by simp [hmem, hv]), hfull,
      hv, Prod.map_apply, hinstalled, id]
  | true =>
    by_cases ht : (bk.slot 0).tag = tag
    · rw [directMappedAccess_of_tag_eq hv ht, Bank.associativeAccess, if_pos (hmem.2 ⟨hv, ht⟩)]
      rfl
    · rw [directMappedAccess_of_tag_ne hv ht, Bank.associativeAccess, if_neg (by simp [hmem, ht]),
        hfull, hv, Prod.map_apply, hinstalled, id]

end

/-! ### The state -/

section
variable (s : State)

@[simp] theorem asRing_phase : s.asRing.phase = s.phase := rfl

@[simp] theorem asRing_mapping : s.asRing.cfg.mapping = .fullyAssociative := rfl

@[simp] theorem asRing_org : s.asRing.cfg.org = s.cfg.org := rfl

@[simp] theorem asRing_fields : s.asRing.fields = s.fields := rfl

@[simp] theorem asRing_stats : s.asRing.stats = s.stats := rfl

@[simp] theorem asRing_bankLength : s.asRing.bankLength = s.bankLength := rfl

@[simp] theorem asRing_bank (b : BankId) : s.asRing.bank b = (s.bank b).asRing := by
  cases b <;> rfl

theorem asRing_setBank (b : BankId) (bk : Bank) :
    (s.setBank b bk).asRing = s.asRing.setBank b bk.asRing := by
  cases b <;> rfl

theorem asRing_recordOutcome (r : LookupResult) :
    (recordOutcome r s).asRing = recordOutcome r s.asRing := by
  rcases r with ⟨_ | _, _ | _⟩ <;> rfl

end

/-- A machine that holds a direct-mapped configuration of one-slot banks (R75). -/
structure State.OneSlot (s : State) : Prop where
  configured : s.Configured
  directMapped : s.cfg.mapping = .directMapped
  bankLength_eq : s.bankLength = 1

section
variable {s : State} (h : s.OneSlot)
include h

theorem oneSlot_bankLength_toNat : s.bankLength.toNat = 1 := by
  rw [h.bankLength_eq]; rfl

theorem oneSlot_directMappedOk {bk : Bank}
    (hok : bk.ok s.cfg.mapping s.bankLength.toNat s.fields.tagBits.toNat = true) :
    bk.DirectMappedOk 1 s.fields.tagBits.toNat := by
  rw [ok_directMapped h.directMapped, oneSlot_bankLength_toNat h] at hok
  exact hok

theorem asRing_ok {bk : Bank}
    (hok : bk.ok s.cfg.mapping s.bankLength.toNat s.fields.tagBits.toNat = true) :
    bk.asRing.ok .fullyAssociative s.bankLength.toNat s.fields.tagBits.toNat = true := by
  rw [ok_fullyAssociative rfl, associativeOk_iff_ringOk, oneSlot_bankLength_toNat h]
  exact asRing_ringOk (oneSlot_directMappedOk h hok)

/-- R63: one slot takes no index bit, so the registers are those of an associative mapping too. -/
theorem asRing_registersDerived : s.asRing.RegistersDerived := by
  have hL := oneSlot_bankLength_toNat h
  obtain ⟨hsize, hnb, hlen, hoff, hib, hrest⟩ := h.configured.1
  refine ⟨hsize, hnb, hlen, hoff, ?_, hrest⟩
  rw [if_pos h.directMapped, ← hlen, hL] at hib
  exact hib

theorem asRing_configured : s.asRing.Configured := by
  obtain ⟨-, h0, hunified, hsplit⟩ := h.configured
  refine ⟨asRing_registersDerived h, asRing_ok h h0, fun ho => ?_, fun ho => asRing_ok h (hsplit ho)⟩
  change s.bank1.asRing = Bank.empty
  rw [hunified ho, asRing_empty]

/-- R80 on the machine read as an associative one is R71 on the machine. -/
theorem faLookupOrInstall_asRing (k : AccessKind) (tag : Tag) :
    faLookupOrInstall (s.bankFor k) tag s.asRing =
      .ok (((s.bank (s.bankFor k)).directMappedAccess 0 tag).1,
        (s.setBank (s.bankFor k) ((s.bank (s.bankFor k)).directMappedAccess 0 tag).2).asRing) := by
  have hL := oneSlot_bankLength_toNat h
  obtain ⟨hr, hbanks⟩ := h.configured
  have hb := oneSlot_directMappedOk h (bankFor_ok hbanks k)
  have hring : (s.asRing.bank (s.bankFor k)).RingOk s.asRing.bankLength.toNat := by
    rw [asRing_bank, asRing_bankLength, hL]
    exact asRing_ringOk hb
  rw [faLookupOrInstall_eq tag hring (bankFor_lt_nBanks hr k) (bankLength_le (s := s) hr), asRing_bank,
    asRing_bankLength, hL, asRing_associativeAccess hb, asRing_setBank]
  rfl

/-- R71, R80 with one slot: both engines answer the same and leave the same machine. -/
theorem lookupOrInstall_asRing (k : AccessKind) (a : Addr) :
    lookupOrInstall (s.bankFor k) (decodeAddress a s.fields) s.asRing =
      (lookupOrInstall (s.bankFor k) (decodeAddress a s.fields) s).map
        (Prod.map id State.asRing) := by
  have hL := oneSlot_bankLength_toNat h
  obtain ⟨hr, -⟩ := h.configured
  have hin : s.inBank (s.bankFor k) 0 = true := inBank_bankFor hr k (by omega)
  have hindex : (decodeAddress a s.fields).index.toNat = 0 := by
    have hlt := indexOf_lt hr a h.directMapped
    rw [decodeAddress_index_toNat hr]
    omega
  simp only [lookupOrInstall, h.directMapped, asRing_mapping, hindex, dmLookupOrInstall_eq _ hin,
    faLookupOrInstall_asRing h]
  rfl

/-- R75 for an access that has passed its checks. -/
theorem performAccess_asRing (k : AccessKind) (a : Addr) :
    performAccess k a s.asRing = mapNext State.asRing (performAccess k a s) := by
  have hlookup := lookupOrInstall_asRing h k a
  simp only [performAccess, process, asRing_org, asRing_fields, bankOf_eq_bankFor, hlookup]
  cases lookupOrInstall (s.bankFor k) (decodeAddress a s.fields) s with
  | error => rfl
  | ok rt =>
    obtain ⟨r, t⟩ := rt
    simp only [Except.map, Prod.map, id, ← asRing_recordOutcome]
    rfl

theorem accessCommand_asRing (hp : s.phase = .running) (k : AccessKind) (a : Addr) (w : CmdWord) :
    accessCommand k a w s.asRing = mapNext State.asRing (accessCommand k a w s) := by
  simp only [accessCommand, asRing_phase, hp, asRing_stats, performAccess_asRing h]
  split <;> rfl

/-- R75: the two machines take the same step on every command. -/
theorem exec_asRing (hp : s.phase = .running) (i : Instr) :
    exec i s.asRing = mapNext State.asRing (exec i s) := by
  cases i with
  | configure => simp only [exec, execConfigure, asRing_phase, hp]; rfl
  | accessI => exact accessCommand_asRing h hp _ _ _
  | accessD => exact accessCommand_asRing h hp _ _ _
  | endTrace =>
    simp only [exec, execEndTrace, asRing_phase, hp]
    split <;> rfl
  | _ =>
    change reservedCommand _ s.asRing = mapNext State.asRing (reservedCommand _ s)
    simp only [reservedCommand, asRing_phase, hp]
    rfl

theorem asRing_inv (hs : s.Inv) (hp : s.phase = .running) : s.asRing.Inv := by
  obtain ⟨-, herr, hcounters, hresp⟩ := hs
  exact ⟨(phaseOk_running (s := s.asRing) hp).2 (asRing_configured h), herr, hcounters, hresp⟩

end

end Sys2Proof.Machine
end

section
/-! SUPPORT. The statements about the direct-mapped engine (spec 41_direct_mapped_bank.md). -/

namespace Sys2Proof.Machine

/-- Settles O28: an access that can be performed is R71's three cases on its bank. -/
theorem directMappedAccess : Obligations.DirectMappedAccess := by
  intro k a s hs hcan hm
  obtain ⟨hr, -⟩ := configured_of_inv hs hcan.1
  rw [exec_directMapped hs hcan hm, State.afterDirectMapped]
  refine ⟨fun hv => ?_, fun hv ht => ?_, fun hv ht => ?_⟩
  · rw [directMappedAccess_of_invalid hv]
  · have ht' := ofNat_tagOf_toNat hr a
    rw [directMappedAccess_of_tag_eq hv (BitVec.eq_of_toNat_eq (ht.trans ht'.symm))]
  · have ht' := ofNat_tagOf_toNat hr a
    rw [directMappedAccess_of_tag_ne hv fun heq => ht (by rw [heq, ht'])]

/-- Settles O29: each access leaves its tag in the slot, so the next one finds another tag there. -/
theorem directMappedConflictsAlternate : Obligations.DirectMappedConflictsAlternate := by
  intro k a a' s hs hp hlt hm hindex htag
  obtain ⟨hr, -⟩ := configured_of_inv hs hp
  have hacc := afterDirectMapped_accesses_toNat s k a (by omega)
  have hacc' := afterDirectMapped_accesses_toNat (s.afterDirectMapped k a) k a' (by omega)
  have hcanT : (s.afterDirectMapped k a).CanAccess := canAccess_of_lt hp (by omega)
  have hcanU : ((s.afterDirectMapped k a).afterDirectMapped k a').CanAccess :=
    canAccess_of_lt hp (by omega)
  have ht := exec_directMapped hs (canAccess_of_lt hp (by omega)) hm k a
  have hsT := exec_inv hs ht
  have hu := exec_directMapped hsT hcanT hm k a'
  have hsU := exec_inv hsT hu
  have hv := exec_directMapped hsU hcanU hm k a
  obtain ⟨hhit, hevict, hevicts, hhits⟩ :=
    afterDirectMapped_of_conflicts hsT hcanT (afterDirectMapped_conflicts hr k hindex htag)
  obtain ⟨hhit', hevict', hevicts', hhits'⟩ := afterDirectMapped_of_conflicts hsU hcanU
    (afterDirectMapped_conflicts (s := s.afterDirectMapped k a) hr k hindex.symm htag.symm)
  exact ⟨_, _, _, ht, hu, hv, hhit, hevict, hhit', hevict', by rw [hevicts', hevicts],
    hhits'.trans hhits⟩

/-- Settles O30, by induction on the accesses. -/
theorem directMappedSlotsHoldTheLatestTag : Obligations.DirectMappedSlotsHoldTheLatestTag :=
  fun records _ => run_directMapped records

/-- Settles O37: with one slot the ring's cursors stay 0, and a scan reads the slot that the index 0
names. -/
theorem oneSlotBankIsARingOfOne : Obligations.OneSlotBankIsARingOfOne := by
  intro i s t hs hp hm hL h
  have hone : s.OneSlot := ⟨configured_of_inv hs hp, hm, hL⟩
  exact ⟨asRing_inv hone hs hp, by rw [exec_asRing hone hp, h, mapNext_next]⟩

/-- Settles O52: a miss evicts or makes one more slot valid, and CONFIGURE and reset leave no valid slot
and no miss. -/
theorem everyStepKeepsTheMissAccount : Obligations.EveryStepKeepsTheMissAccount :=
  fun _ _ => step_missesAccounted

end Sys2Proof.Machine
end

section
/-! SUPPORT. The ring read as a queue (spec 42_associative_bank.md R76, R77, R79, R80, R82, R83): its
resident tags, oldest first, and what an access does to them. -/

namespace Sys2Proof.Machine

/-! ### The resident tags of a ring (R76, R77) -/

section
variable {bk : Bank} {L : Nat} (hb : bk.RingOk L)
include hb

theorem occupancy_eq_filled : bk.occupancy L = bk.filled L := by
  simpa [Bank.residentSlots] using (residentSlots_perm hb.end_lt hb.start_zero).length_eq

theorem residentTags_eq_map_filled :
    bk.residentTags L =
      (List.range (bk.filled L)).map fun k => (bk.slot (bk.slotIndex L k)).tag := by
  rw [Bank.residentTags, Bank.residentSlots, occupancy_eq_filled hb, List.map_map]
  rfl

theorem residentTags_length : (bk.residentTags L).length = bk.filled L := by
  rw [residentTags_eq_map_filled hb, List.length_map, List.length_range]

theorem residentTags_length_le : (bk.residentTags L).length ≤ L :=
  residentTags_length hb ▸ filled_le hb.end_lt

/-- R76: the flag tells a ring with all its slots in use from one with none. -/
theorem residentTags_length_eq_iff : (bk.residentTags L).length = L ↔ bk.isFull = true := by
  have hend := hb.end_lt
  rw [residentTags_length hb, Bank.filled]
  cases bk.isFull with
  | true => simp
  | false => simpa using hend.ne

/-- While `start` has not moved, the `k`-th resident entry is in slot `k`. -/
theorem residentTags_of_start_zero (hstart : bk.start = 0) :
    bk.residentTags L = (List.range (bk.filled L)).map fun k => (bk.slot k).tag := by
  rw [residentTags_eq_map_filled hb]
  refine List.map_congr_left fun k hk => ?_
  have hle := filled_le hb.end_lt
  have hk' := List.mem_range.1 hk
  have hindex : bk.slotIndex L k = k := by
    simpa [Bank.slotIndex, hstart] using Nat.mod_eq_of_lt (by omega : k < L)
  rw [hindex]

/-- The entries after the oldest are in other slots than it. -/
theorem slotIndex_ne_start {k : Nat} (hpos : 0 < k) (hk : k < L) :
    bk.slotIndex L k ≠ bk.start.toNat := by
  have hstart := hb.start_lt
  rw [Bank.slotIndex]
  rcases Nat.lt_or_ge (bk.start.toNat + k) L with hlt | hge
  · rw [Nat.mod_eq_of_lt hlt]; omega
  · rw [Nat.mod_eq_sub_mod hge, Nat.mod_eq_of_lt (by omega)]; omega

theorem slotIndex_length_eq_start : bk.slotIndex L L = bk.start.toNat := by
  rw [Bank.slotIndex, Nat.add_mod_right, Nat.mod_eq_of_lt hb.start_lt]

/-! ### The resident tags after an install (R79) -/

variable (tag : Tag) (h64 : L ≤ 64)

include h64 in
theorem installed_slot_end :
    (bk.installed L tag).slot bk.end_.toNat = { tag := tag, valid := true } :=
  writeSlot_slot_self bk _ _ (Nat.lt_of_lt_of_le hb.end_lt h64)

omit hb in
theorem installed_slot_of_ne {j : Nat} (h : j ≠ bk.end_.toNat) :
    (bk.installed L tag).slot j = bk.slot j :=
  writeSlot_slot_of_ne bk _ j _ h

include h64

/-- An install in a full ring makes the second-oldest entry the oldest. -/
theorem slotIndex_installed_of_full (hf : bk.isFull = true) (k : Nat) :
    (bk.installed L tag).slotIndex L k = bk.slotIndex L (k + 1) := by
  have hcur := advanceCursor_toNat bk.start L (Nat.zero_lt_of_lt hb.end_lt) h64
  simp only [Bank.slotIndex, Bank.installed, hf, if_true, hcur, Nat.mod_add_mod]
  rw [Nat.add_assoc, Nat.add_comm 1 k]

variable (habsent : ∀ j, j < bk.filled L → (bk.slot j).tag ≠ tag)
include habsent

theorem residentTags_installed_of_not_full (hf : bk.isFull = false) :
    (bk.installed L tag).residentTags L = bk.residentTags L ++ [tag] := by
  obtain ⟨hstart', -⟩ := installed_of_not_full hb tag h64 hf
  have hfilled : bk.filled L = bk.end_.toNat := by simp [Bank.filled, hf]
  have hfilled' : (bk.installed L tag).filled L = bk.end_.toNat + 1 := by
    have hlt := lt_filled_installed_iff hb tag h64 bk.end_.toNat
    have hge := lt_filled_installed_iff hb tag h64 (bk.end_.toNat + 1)
    omega
  rw [residentTags_of_start_zero hb (hb.start_zero hf),
    residentTags_of_start_zero (ringOk_installed hb tag h64 habsent) hstart', hfilled, hfilled',
    List.range_succ, List.map_append, List.map_singleton, installed_slot_end hb tag h64]
  congr 1
  refine List.map_congr_left fun k hk => ?_
  rw [installed_slot_of_ne tag (List.mem_range.1 hk).ne]

theorem residentTags_installed_of_full (hf : bk.isFull = true) :
    (bk.installed L tag).residentTags L = (bk.residentTags L).tail ++ [tag] := by
  obtain ⟨n, rfl⟩ : ∃ n, L = n + 1 := Nat.exists_eq_succ_of_ne_zero (by have := hb.end_lt; omega)
  have hend : bk.end_.toNat = bk.start.toNat := congrArg BitVec.toNat (hb.end_eq hf)
  have hfilled : bk.filled (n + 1) = n + 1 := if_pos hf
  have hfilled' : (bk.installed (n + 1) tag).filled (n + 1) = n + 1 :=
    if_pos (installed_of_full hb tag hf).1
  have hnew : (bk.installed (n + 1) tag).slot (bk.slotIndex (n + 1) (n + 1)) =
      { tag := tag, valid := true } := by
    rw [slotIndex_length_eq_start hb, ← hend, installed_slot_end hb tag h64]
  rw [residentTags_eq_map_filled hb,
    residentTags_eq_map_filled (ringOk_installed hb tag h64 habsent), hfilled, hfilled']
  simp only [slotIndex_installed_of_full hb tag h64 hf]
  rw [List.range_succ, List.map_append, List.map_singleton, hnew, ← List.range_succ,
    List.range_succ_eq_map, List.map_cons, List.tail_cons, List.map_map]
  congr 1
  refine List.map_congr_left fun k hk => ?_
  have hne := slotIndex_ne_start hb (Nat.succ_pos k) (Nat.succ_lt_succ (List.mem_range.1 hk))
  rw [installed_slot_of_ne tag (hend ▸ hne)]
  rfl

end

/-! ### An access read as an access to a FIFO cache (R80, R83) -/

section
variable {bk : Bank} {L : Nat} {tag : Tag}

theorem associativeAccess_of_mem (h : tag ∈ bk.residentTags L) :
    bk.associativeAccess L tag = ({ result := .hit, evicted := false }, bk) := if_pos h

theorem associativeAccess_of_not_mem (h : tag ∉ bk.residentTags L) :
    bk.associativeAccess L tag =
      ({ result := .miss, evicted := bk.isFull }, bk.installed L tag) := if_neg h

variable (hb : bk.RingOk L)
include hb

theorem tag_ne_of_not_mem_residentTags (h : tag ∉ bk.residentTags L) :
    ∀ j, j < bk.filled L → (bk.slot j).tag ≠ tag :=
  fun j hj ht => h ((mem_residentTags_iff hb tag).2 ⟨j, hj, ht⟩)

/-- R82 (iv): if a ring has room after an access, it had room before it, and nothing was evicted. -/
theorem associativeAccess_of_room_after (h : (bk.associativeAccess L tag).2.isFull = false) :
    bk.isFull = false ∧ (bk.associativeAccess L tag).1.evicted = false := by
  by_cases hmem : tag ∈ bk.residentTags L
  · rw [associativeAccess_of_mem hmem] at h ⊢
    exact ⟨h, rfl⟩
  · rw [associativeAccess_of_not_mem hmem] at h ⊢
    have hf : bk.isFull = false := by
      cases hf : bk.isFull with
      | false => rfl
      | true => rw [(installed_of_full hb tag hf).1] at h; cases h
    exact ⟨hf, hf⟩

/-- R83: the ring does to its resident tags, oldest first, what a FIFO cache does, and reports the
same. -/
theorem fifoAccess_residentTags (tag : Tag) (h64 : L ≤ 64) :
    fifoAccess L (bk.residentTags L) tag =
      ((bk.associativeAccess L tag).1, (bk.associativeAccess L tag).2.residentTags L) := by
  by_cases hmem : tag ∈ bk.residentTags L
  · rw [associativeAccess_of_mem hmem, fifoAccess, if_pos hmem]
  · have habsent := tag_ne_of_not_mem_residentTags hb hmem
    have hlength := residentTags_length_eq_iff hb
    rw [associativeAccess_of_not_mem hmem, fifoAccess, if_neg hmem]
    cases hf : bk.isFull with
    | true => rw [if_pos (hlength.2 hf), residentTags_installed_of_full hb tag h64 habsent hf]
    | false =>
      rw [if_neg (by simp [hlength, hf]), residentTags_installed_of_not_full hb tag h64 habsent hf]

end

/-! ### The last missed tags (R83 (iv)) -/

section
variable {L : Nat} {q : List Tag}

theorem lastEntries_of_length_le {α : Type} {n : Nat} {l : List α} (h : l.length ≤ n) :
    lastEntries n l = l := by
  rw [lastEntries, Nat.sub_eq_zero_of_le h, List.drop_zero]

/-- The last entries of a longer list do not depend on what was dropped before. -/
theorem lastEntries_lastEntries_append {α : Type} (n : Nat) (l m : List α) :
    lastEntries n (lastEntries n l ++ m) = lastEntries n (l ++ m) := by
  simp only [lastEntries]
  rw [← List.drop_append_of_le_length (Nat.sub_le _ _), List.drop_drop]
  congr 1
  simp only [List.length_drop, List.length_append]
  omega

/-- R83: a miss keeps the last `L` of the tags held and the one that enters. -/
theorem fifoAccess_of_not_mem {tag : Tag} (hL : 0 < L) (hlen : q.length ≤ L) (h : tag ∉ q) :
    (fifoAccess L q tag).2 = lastEntries L (q ++ [tag]) := by
  rw [fifoAccess, if_neg h]
  split
  · next hfull =>
    rw [lastEntries, List.length_append, List.length_singleton, hfull, Nat.add_sub_cancel_left,
      List.drop_append_of_le_length (by omega), List.drop_one]
  · rw [lastEntries_of_length_le]
    simp only [List.length_append, List.length_singleton]
    omega

/-- R83 (iv), one access: the tags held and the tags still to miss have the same last `L` entries before
and after it. -/
theorem lastEntries_fifoAccess_missedTags (hL : 0 < L) (hlen : q.length ≤ L) (tag : Tag)
    (tags : List Tag) :
    lastEntries L ((fifoAccess L q tag).2 ++ missedTags L tags (fifoAccess L q tag).2) =
      lastEntries L (q ++ missedTags L (tag :: tags) q) := by
  by_cases hmem : tag ∈ q
  · have hheld : (fifoAccess L q tag).2 = q := by rw [fifoAccess, if_pos hmem]
    rw [hheld, missedTags, if_pos hmem]
  · rw [missedTags, if_neg hmem]
    generalize missedTags L tags (fifoAccess L q tag).2 = missed
    rw [fifoAccess_of_not_mem hL hlen hmem, lastEntries_lastEntries_append, List.append_assoc,
      List.singleton_append]

end

end Sys2Proof.Machine
end

section
/-! SUPPORT. The associative engine on a machine that holds a configuration (spec
42_associative_bank.md R78 to R80): an access by plain arithmetic, runs of accesses (R83, R84) and the
parallel compare (R85). -/

namespace Sys2Proof.Machine

/-! ### The banks in use -/

section
variable {s : State}

theorem configured_of_running_or_ended (hs : s.Inv) (hp : s.phase = .running ∨ s.phase = .ended) :
    s.Configured := by
  obtain ⟨hphase, -⟩ := hs
  rcases hp with hp | hp
  · exact (phaseOk_running hp).1 hphase
  · exact (phaseOk_ended hp).1 hphase

variable (hc : s.Configured) (hm : s.cfg.mapping = .fullyAssociative)
include hc hm

omit hc in
/-- R28: a bank that satisfies an associative configuration's invariant is a ring. -/
theorem ringOk_of_ok {bk : Bank}
    (hok : bk.ok s.cfg.mapping s.bankLength.toNat s.fields.tagBits.toNat = true) :
    bk.RingOk s.bankLength.toNat :=
  (associativeOk_iff_ringOk _ _).1 ((ok_fullyAssociative hm).1 hok)

theorem ringOk_bank0 : s.bank0.RingOk s.bankLength.toNat := by
  obtain ⟨-, h0, -⟩ := hc
  exact ringOk_of_ok hm h0

/-- A bank in use of an associative configuration is a ring. -/
theorem ringOk_bank {b : BankId} (hn : b.number < s.nBanks.toNat) :
    (s.bank b).RingOk s.bankLength.toNat := by
  cases b with
  | bank0 => exact ringOk_bank0 hc hm
  | bank1 =>
    obtain ⟨⟨-, hnb, -⟩, -, -, hsplit⟩ := hc
    cases horg : s.cfg.org with
    | split => exact ringOk_of_ok hm (hsplit horg)
    | unified =>
      rw [hnb, horg] at hn
      exact absurd hn (by decide)

theorem ringOk_bankFor (k : AccessKind) : (s.bank (s.bankFor k)).RingOk s.bankLength.toNat :=
  ringOk_of_ok hm (bankFor_ok hc.2 k)

end

theorem bankFor_of_unified {s : State} (ho : s.cfg.org = .unified) (k : AccessKind) :
    s.bankFor k = .bank0 := by
  simp [State.bankFor, ho]

/-! ### One access to an associative machine (R88, R89) -/

section
variable {bk : Bank} {L : Nat} (tag : Tag)

/-- R79 by plain arithmetic: an install in a ring with room. -/
theorem installed_eq_of_not_full (hL : 0 < L) (h64 : L ≤ 64) (hf : bk.isFull = false) :
    bk.installed L tag =
      { bk.holding bk.end_.toNat tag with
        end_ := BitVec.ofNat 6 ((bk.end_.toNat + 1) % L)
        isFull := decide ((bk.end_.toNat + 1) % L = bk.start.toNat) } := by
  have hfull : ringFull (advanceCursor bk.end_ L) bk.start =
      decide ((bk.end_.toNat + 1) % L = bk.start.toNat) := by
    rw [Bool.eq_iff_iff, ringFull_iff, decide_eq_true_iff, BitVec.toNat_eq,
      advanceCursor_toNat _ L hL h64]
  simp only [Bank.installed, hf, hfull, Bool.false_eq_true, if_false]
  rfl

/-- R79 by plain arithmetic: an install in a full ring. -/
theorem installed_eq_of_full (hb : bk.RingOk L) (hf : bk.isFull = true) :
    bk.installed L tag =
      { bk.holding bk.end_.toNat tag with
        start := BitVec.ofNat 6 ((bk.start.toNat + 1) % L)
        end_ := BitVec.ofNat 6 ((bk.end_.toNat + 1) % L)
        isFull := true } := by
  have hfull : (bk.installed L tag).isFull = true := (installed_of_full hb tag hf).1
  have hstart : (bk.installed L tag).start = advanceCursor bk.start L := if_pos hf
  calc bk.installed L tag
      = { bk.holding bk.end_.toNat tag with
          start := (bk.installed L tag).start
          end_ := advanceCursor bk.end_ L
          isFull := (bk.installed L tag).isFull } := rfl
    _ = _ := by rw [hfull, hstart]; rfl

end

/-- R63: an associative configuration has no index bits, so the tag is the block number. -/
theorem tagOf_associative {s : State} (hr : s.RegistersDerived)
    (hm : s.cfg.mapping = .fullyAssociative) (a : Addr) : s.tagOf a = a.toNat / 64 := by
  obtain ⟨-, -, -, -, hib, -⟩ := hr
  simp [State.tagOf, hib, hm]

/-- The state a completed access to an associative machine leaves. -/
def State.afterAssociative (s : State) (k : AccessKind) (a : Addr) : State :=
  let access := (s.bank (s.bankFor k)).associativeAccess s.bankLength.toNat
    (BitVec.ofNat 26 (a.toNat / 64))
  s.afterAccess k a (s.bankFor k) access.2 access.1

/-- R80, R87: on an associative mapping an access that has passed its checks completes. -/
theorem performAccess_associative {s : State} (hc : s.Configured)
    (hm : s.cfg.mapping = .fullyAssociative) (k : AccessKind) (a : Addr) :
    performAccess k a s = .next (s.afterAssociative k a) := by
  have hb := ringOk_bankFor hc hm k
  obtain ⟨hr, -⟩ := hc
  simp only [performAccess, process, lookupOrInstall, hm, bankOf_eq_bankFor, decodeAddress_tag26 hr,
    tagOf_associative hr hm, faLookupOrInstall_eq _ hb (bankFor_lt_nBanks hr k) (bankLength_le hr),
    respond_recordOutcome_eq hr]
  rfl

theorem exec_associative {s : State} (hs : s.Inv) (hcan : s.CanAccess)
    (hm : s.cfg.mapping = .fullyAssociative) (k : AccessKind) (a : Addr) :
    exec (accessOf k a) s = .next (s.afterAssociative k a) := by
  rw [exec_accessOf_of_canAccess hcan, performAccess_associative (configured_of_inv hs hcan.1) hm]

/-- R80, R83: an access does to the resident tags of its bank what a FIFO cache does, and the response
registers report the same. -/
theorem afterAssociative_refines_fifo {s : State} (hc : s.Configured)
    (hm : s.cfg.mapping = .fullyAssociative) (k : AccessKind) (a : Addr) :
    fifoAccess s.bankLength.toNat ((s.bank (s.bankFor k)).residentTags s.bankLength.toNat)
        (BitVec.ofNat 26 (a.toNat / 64)) =
      ({ result := if (s.afterAssociative k a).resp.hit then .hit else .miss
         evicted := (s.afterAssociative k a).resp.evict },
        ((s.afterAssociative k a).bank (s.bankFor k)).residentTags s.bankLength.toNat) := by
  rw [fifoAccess_residentTags (ringOk_bankFor hc hm k) _ (bankLength_le hc.1), State.afterAssociative,
    afterAccess_bank, if_pos rfl]
  generalize (s.bank (s.bankFor k)).associativeAccess _ _ = access
  obtain ⟨⟨result, evicted⟩, bk⟩ := access
  cases result <;> rfl

/-- R84: an access to a resident tag hits and leaves both banks and `evicts` as they were. -/
theorem afterAssociative_of_resident {s : State} {k : AccessKind} {a : Addr}
    (h : BitVec.ofNat 26 (a.toNat / 64) ∈
      (s.bank (s.bankFor k)).residentTags s.bankLength.toNat) :
    (∀ b, (s.afterAssociative k a).bank b = s.bank b) ∧
      (s.afterAssociative k a).stats.hits = s.stats.hits + 1 ∧
      (s.afterAssociative k a).stats.evicts = s.stats.evicts := by
  rw [State.afterAssociative, associativeAccess_of_mem h]
  refine ⟨fun b => ?_, rfl, rfl⟩
  rw [afterAccess_bank]
  split
  · next hb => rw [hb]
  · rfl

/-! ### A run of accesses (R119) -/

section
variable {s : State} (hs : s.Inv) (hp : s.phase = .running)
  (hm : s.cfg.mapping = .fullyAssociative)
include hs hp hm

/-- The first of some accesses that fit the counter is performed; the invariant and the room in the
counter remain for the rest. -/
theorem run_associative_cons (r : AccessRecord) (records : List AccessRecord)
    (hlt : s.stats.accesses.toNat + (r :: records).length < 2 ^ 64) :
    Sys2Proof.core.run (r :: records).length
        { s with inputs := offerAll ((r :: records).map AccessRecord.command) } =
      Sys2Proof.core.run records.length
        { s.afterAssociative r.kind r.address with
          inputs := offerAll (records.map AccessRecord.command) } ∧
    (s.afterAssociative r.kind r.address).Inv ∧
    (s.afterAssociative r.kind r.address).stats.accesses.toNat + records.length < 2 ^ 64 := by
  rw [List.length_cons] at hlt
  have hexec := exec_associative hs (canAccess_of_lt hp (by omega)) hm r.kind r.address
  have hacc : (s.afterAssociative r.kind r.address).stats.accesses.toNat =
      s.stats.accesses.toNat + 1 := counter_toNat_add_one (by omega)
  exact ⟨run_offerAll_cons hexec _ _, exec_inv hs hexec, by omega⟩

/-- R83 (iv) from a ring with any content, by induction on the accesses. -/
theorem run_associative_residentTags (records : List AccessRecord) (ho : s.cfg.org = .unified)
    (hlt : s.stats.accesses.toNat + records.length < 2 ^ 64) :
    ∃ t, Sys2Proof.core.run records.length
        { s with inputs := offerAll (records.map AccessRecord.command) } = .next t ∧
      t.bank0.residentTags s.bankLength.toNat =
        lastEntries s.bankLength.toNat (s.bank0.residentTags s.bankLength.toNat ++
          missedTags s.bankLength.toNat
            (records.map fun r => BitVec.ofNat 26 (r.address.toNat / 64))
            (s.bank0.residentTags s.bankLength.toNat)) := by
  induction records generalizing s with
  | nil =>
    have hb := ringOk_bank0 (configured_of_inv hs hp) hm
    refine ⟨_, rfl, ?_⟩
    simp [missedTags, lastEntries_of_length_le (residentTags_length_le hb)]
  | cons r records ih =>
    have hc := configured_of_inv hs hp
    obtain ⟨hrun, hs', hlt'⟩ := run_associative_cons hs hp hm r records hlt
    obtain ⟨t, hrun', htags⟩ := ih hs' hp hm ho hlt'
    have hb := ringOk_bank0 hc hm
    have hfifo := afterAssociative_refines_fifo hc hm r.kind r.address
    rw [bankFor_of_unified ho, bank_bank0, bank_bank0] at hfifo
    have hlast := lastEntries_fifoAccess_missedTags (bankLength_pos hc.1)
      (residentTags_length_le hb) (BitVec.ofNat 26 (r.address.toNat / 64))
      (records.map fun r => BitVec.ofNat 26 (r.address.toNat / 64))
    rw [hfifo] at hlast
    exact ⟨t, hrun.trans hrun', htags.trans hlast⟩

/-- R84, by induction on the accesses. -/
theorem run_associative_of_resident (records : List AccessRecord)
    (hlt : s.stats.accesses.toNat + records.length < 2 ^ 64)
    (hmem : ∀ r, r ∈ records → BitVec.ofNat 26 (r.address.toNat / 64) ∈
      (s.bank (s.bankFor r.kind)).residentTags s.bankLength.toNat) :
    ∃ t, Sys2Proof.core.run records.length
        { s with inputs := offerAll (records.map AccessRecord.command) } = .next t ∧
      (∀ b, t.bank b = s.bank b) ∧
      t.stats.hits.toNat = s.stats.hits.toNat + records.length ∧
      t.stats.evicts = s.stats.evicts := by
  induction records generalizing s with
  | nil => exact ⟨_, rfl, fun b => by cases b <;> rfl, rfl, rfl⟩
  | cons r records ih =>
    obtain ⟨hbanks, hhits, hevicts⟩ := afterAssociative_of_resident (hmem r List.mem_cons_self)
    obtain ⟨hrun, hs', hlt'⟩ := run_associative_cons hs hp hm r records hlt
    obtain ⟨t, hrun', hbanks', hhits', hevicts'⟩ := ih hs' hp hm hlt' fun r' hr' => by
      rw [hbanks]
      exact hmem r' (List.mem_cons_of_mem r hr')
    obtain ⟨hle, -⟩ := countersOk_of_inv hs
    rw [List.length_cons] at hlt ⊢
    have hone := counter_toNat_add_one (c := s.stats.hits) (by omega)
    refine ⟨t, hrun.trans hrun', fun b => (hbanks' b).trans (hbanks b), ?_, hevicts'.trans hevicts⟩
    rw [hhits', hhits, hone]
    omega

end

/-! ### The parallel compare (R85) -/

/-- R82 (ii): among the slots of a ring the valid ones are the resident ones, so the compare of all
slots answers whether the tag is resident. -/
theorem faContainsParallel_eq {s : State} {b : BankId} (tag : Tag)
    (hb : (s.bank b).RingOk s.bankLength.toNat) (h64 : s.bankLength.toNat ≤ 64) :
    faContainsParallel b tag s =
      decide (tag ∈ (s.bank b).residentTags s.bankLength.toNat) := by
  have hle := filled_le hb.end_lt
  rw [Bool.eq_iff_iff, decide_eq_true_iff, mem_residentTags_iff hb, faContainsParallel,
    List.any_eq_true]
  simp only [List.mem_range, Bool.and_eq_true, beq_iff_eq]
  refine exists_congr fun j => ⟨fun ⟨hj, hv, ht⟩ => ⟨?_, ht⟩, fun ⟨hj, ht⟩ => ?_⟩
  · exact (hb.valid_iff j (Nat.lt_of_lt_of_le hj h64)).1 hv
  · have hjL : j < s.bankLength.toNat := Nat.lt_of_lt_of_le hj hle
    exact ⟨hjL, (hb.valid_iff j (Nat.lt_of_lt_of_le hjL h64)).2 hj, ht⟩

/-- R82 (ii): two valid slots of a ring with the same tag are one slot. -/
theorem slot_unique_of_ringOk {bk : Bank} {L : Nat} (hb : bk.RingOk L) (h64 : L ≤ 64) {tag : Tag}
    {i j : Nat} (hi : i < L) (hj : j < L) (hsi : bk.slot i = { tag := tag, valid := true })
    (hsj : bk.slot j = { tag := tag, valid := true }) : i = j := by
  have hi' := (hb.valid_iff i (Nat.lt_of_lt_of_le hi h64)).1 (by rw [hsi])
  have hj' := (hb.valid_iff j (Nat.lt_of_lt_of_le hj h64)).1 (by rw [hsj])
  exact hb.tags_distinct i j hi' hj' (by rw [hsi, hsj])

/-- A state no run reaches (U9): the ring of FA 128 Unified is empty, yet its slot 1 is valid. -/
def State.withStaleSlot : State :=
  { State.reset with
    phase := .running
    cfg := { size := 128, mapping := .fullyAssociative, org := .unified }
    nBanks := 1
    bankLength := 2
    fields := { offsetBits := 6, indexBits := 0, tagBits := 26 }
    bank0 := Bank.empty.writeSlot 1 { tag := 5, valid := true } }

theorem not_inv_withStaleSlot : ¬ State.withStaleSlot.Inv := by
  intro hs
  have hb := ringOk_bank0 (configured_of_inv hs rfl) rfl
  have hresident := (hb.valid_iff 1 (by decide)).1 rfl
  exact absurd hresident (by decide)

end Sys2Proof.Machine
end

section
/-! SUPPORT. The fill law of the Unified ring (spec 42_associative_bank.md R82 (iii), (iv), R83 (iii)): on
a state whose misses are accounted for, it says that nothing is evicted before the ring is full. -/

namespace Sys2Proof.Machine

/-! ### The valid slots of a ring -/

/-- R82 (ii): the valid slots of a ring are the first `filled` ones. -/
theorem validCount_of_ringOk {bk : Bank} {L : Nat} (hb : bk.RingOk L) (h64 : L ≤ 64) :
    bk.validCount = bk.filled L := by
  have hle : bk.filled L ≤ slotsPerBank := Nat.le_trans (filled_le hb.end_lt) h64
  have hvalid : ∀ j (hj : j < slotsPerBank), bk.slots[j].valid = true ↔ j < bk.filled L :=
    fun j hj => slot_of_lt bk hj ▸ hb.valid_iff j hj
  have hfirst : (bk.slots.toList.take (bk.filled L)).countP (fun blk => blk.valid) =
      bk.filled L := by
    rw [List.countP_eq_length.2, List.length_take, Vector.length_toList, Nat.min_eq_left hle]
    intro blk hblk
    obtain ⟨j, hj, rfl⟩ := List.mem_take_iff_getElem.1 hblk
    rw [Vector.length_toList, Nat.min_eq_left hle] at hj
    simpa using (hvalid j (Nat.lt_of_lt_of_le hj hle)).2 hj
  have hrest : (bk.slots.toList.drop (bk.filled L)).countP (fun blk => blk.valid) = 0 := by
    rw [List.countP_eq_zero]
    intro blk hblk
    obtain ⟨j, hj, rfl⟩ := List.mem_drop_iff_getElem.1 hblk
    rw [Vector.length_toList] at hj
    have hiff := hvalid (bk.filled L + j) (by omega)
    exact fun hv => absurd (hiff.1 hv) (by omega)
  rw [Bank.validCount, ← List.take_append_drop (bk.filled L) bk.slots.toList, List.countP_append,
    hfirst, hrest, Nat.add_zero]

/-! ### The fill law -/

/-- The one ring of a Unified configuration has evicted nothing before it is full. -/
def State.EvictsOnlyWhenFull (s : State) : Prop :=
  s.cfg.mapping = .fullyAssociative → s.cfg.org = .unified → s.bank0.isFull = false →
    s.stats.evicts.toNat = 0

/-- R83 (iii): with a configuration held, the misses of a Unified ring are its evictions and its
entries. -/
theorem misses_eq_evicts_add_filled {s : State} (hc : s.Configured) (hacct : s.MissesAccounted)
    (hm : s.cfg.mapping = .fullyAssociative) (ho : s.cfg.org = .unified) :
    s.misses = s.stats.evicts.toNat + s.bank0.filled s.bankLength.toNat := by
  have hb := ringOk_bank0 hc hm
  obtain ⟨hr, -, hunified, -⟩ := hc
  rw [hacct, hunified ho, empty_validCount, validCount_of_ringOk hb (bankLength_le hr), Nat.add_zero]

/-- R82 (iii), (iv), R83 (iii): the misses count the entries of a ring with room, so the rest of the law
follows from its evictions being 0. -/
theorem ringFillLaw_iff {s : State} (hs : s.Inv) (hacct : s.MissesAccounted) :
    s.RingFillLaw ↔ s.EvictsOnlyWhenFull := by
  obtain ⟨hphase, -⟩ := hs
  refine forall_congr' fun hm => forall_congr' fun ho => ?_
  obtain ⟨hcfg, -⟩ | hc := unconfigured_or_configured hphase
  · rw [hcfg] at hm; cases hm
  · have hb := ringOk_bank0 hc hm
    have hmisses := misses_eq_evicts_add_filled hc hacct hm ho
    have hend := hb.end_lt
    rw [occupancy_eq_filled hb]
    cases hf : s.bank0.isFull with
    | true =>
      have hfilled : s.bank0.filled s.bankLength.toNat = s.bankLength.toNat := if_pos hf
      rw [hfilled] at hmisses ⊢
      exact iff_of_true ⟨iff_of_true rfl (by omega), nofun, by omega, by omega⟩ nofun
    | false =>
      have hfilled : s.bank0.filled s.bankLength.toNat = s.bank0.end_.toNat := if_neg (by simp [hf])
      rw [hfilled] at hmisses ⊢
      constructor
      · rintro ⟨-, hcount, -⟩ -
        have hcount' := hcount rfl
        omega
      · intro hnone
        have hzero := hnone rfl
        exact ⟨iff_of_false nofun (by omega), fun _ => by omega, by omega, by omega⟩

/-- R82 (iv): an access that leaves room in the ring evicts nothing. -/
theorem afterAssociative_evictsOnlyWhenFull {s : State} (hc : s.Configured)
    (hlaw : s.EvictsOnlyWhenFull) (k : AccessKind) (a : Addr) :
    (s.afterAssociative k a).EvictsOnlyWhenFull := by
  intro hm ho hroom
  have hbank : s.bankFor k = .bank0 := bankFor_of_unified ho k
  rw [← bank_bank0, State.afterAssociative, afterAccess_bank, hbank, if_pos rfl] at hroom
  obtain ⟨hf, hevicted⟩ := associativeAccess_of_room_after (ringOk_bank0 hc hm) hroom
  have hevicts : (s.afterAssociative k a).stats.evicts = s.stats.evicts :=
    if_neg (by rw [hbank]; simp [hevicted])
  rw [hevicts]
  exact hlaw hm ho hf

theorem commandEffect_evictsOnlyWhenFull {i : Instr} {s t : State} (hs : s.Inv)
    (hlaw : s.EvictsOnlyWhenFull) (h : CommandEffect i s t) : t.EvictsOnlyWhenFull := by
  cases h with
  | ignored => exact hlaw
  | raised => exact hlaw
  | ended => exact hlaw
  | configured hi hp hsize hcap h =>
    obtain ⟨-, hstats, -⟩ := performConfigure_writes h
    intro _ _ _
    rw [hstats]; rfl
  | @accessed k a _ hi hp hmax h =>
    intro hm
    obtain ⟨-, -, -, hcfg, -⟩ := performAccess_frame h
    rw [hcfg] at hm
    cases (performAccess_associative (configured_of_inv hs hp) hm k a).symm.trans h
    exact afterAssociative_evictsOnlyWhenFull (configured_of_inv hs hp) hlaw k a hm

theorem step_evictsOnlyWhenFull {s t : State} (hs : s.Inv) (hlaw : s.EvictsOnlyWhenFull)
    (h : step s = .next t) : t.EvictsOnlyWhenFull := by
  obtain ⟨-, rfl⟩ | ⟨-, rfl | ⟨i, hx⟩⟩ := step_effect h
  · exact fun _ _ _ => rfl
  · exact hlaw
  · exact commandEffect_evictsOnlyWhenFull (s := { s with inputs := s.inputs.tail }) hs hlaw hx

end Sys2Proof.Machine
end

section
/-! SUPPORT. The statements about the associative engine (spec 42_associative_bank.md). -/

namespace Sys2Proof.Machine

/-- Settles O31: an access that can be performed is R80's two cases on its bank, and an install moves the
cursors by one modulo the length. -/
theorem associativeAccess : Obligations.AssociativeAccess := by
  intro k a s hs hcan hm
  have hc := configured_of_inv hs hcan.1
  have hb := ringOk_bankFor hc hm k
  rw [exec_associative hs hcan hm, State.afterAssociative]
  refine ⟨fun hmem => ?_, fun hmem hf => ?_, fun hmem hf => ?_⟩
  · rw [associativeAccess_of_mem hmem]
  · rw [associativeAccess_of_not_mem hmem, hf,
      installed_eq_of_not_full _ (bankLength_pos hc.1) (bankLength_le hc.1) hf]
  · rw [associativeAccess_of_not_mem hmem, hf, installed_eq_of_full _ hb hf]

/-- Settles O32: an install appends the tag to the resident ones, and a full ring drops the oldest. -/
theorem ringRefinesFifo : Obligations.RingRefinesFifo := by
  intro k a s hs hcan hm
  have hc := configured_of_inv hs hcan.1
  exact ⟨_, exec_associative hs hcan hm k a, afterAssociative_refines_fifo hc hm k a⟩

/-- Settles O33: with an empty ring the tags held before the run are none. -/
theorem ringHoldsTheLastMissedTags : Obligations.RingHoldsTheLastMissedTags := by
  intro records s hs hp hm ho hempty hlt
  obtain ⟨t, hrun, htags⟩ := run_associative_residentTags hs hp hm records ho hlt
  have hnone : s.bank0.residentTags s.bankLength.toNat = [] := by
    rw [hempty, Bank.residentTags, Bank.residentSlots, occupancy_of_isEmpty rfl]
    rfl
  rw [hnone, List.nil_append] at htags
  exact ⟨t, hrun, htags⟩

/-- Settles O34: the fill law says that nothing is evicted before the ring is full, and every step keeps
that. -/
theorem everyStepKeepsTheRingFillLaw : Obligations.EveryStepKeepsTheRingFillLaw := by
  intro s t hs hacct hlaw h
  rw [ringFillLaw_iff (step_inv hs h) (step_missesAccounted hs hacct h)]
  exact step_evictsOnlyWhenFull hs ((ringFillLaw_iff hs hacct).1 hlaw) h

/-- Settles O35, by induction on the accesses. -/
theorem residentTagsAreIdempotent : Obligations.ResidentTagsAreIdempotent := by
  intro records s hs hp hm hlt hmem
  obtain ⟨t, hrun, hbanks, hhits, hevicts⟩ := run_associative_of_resident hs hp hm records hlt hmem
  exact ⟨t, hrun, hbanks .bank0, hbanks .bank1, hhits, hevicts⟩

/-- Settles O36: both answer whether the tag is resident; on an empty ring with a stale valid slot the
scan reads no slot and the compare finds that one. -/
theorem parallelCompareEqualsScan : Obligations.ParallelCompareEqualsScan := by
  refine ⟨fun b tag s hs hp hm hn => ?_, .bank0, 5, State.withStaleSlot, not_inv_withStaleSlot,
    rfl, rfl, by decide, by decide, rfl, rfl⟩
  have hc := configured_of_running_or_ended hs hp
  have hb := ringOk_bank hc hm hn
  have h64 := bankLength_le hc.1
  rw [faContains_eq tag hb hn h64, faContainsParallel_eq tag hb h64]
  exact ⟨rfl, fun i j hi hj => slot_unique_of_ringOk hb h64 hi hj⟩

end Sys2Proof.Machine
end

section
/-! SUPPORT. What an access depends on besides its own bank and its address (spec
43_dispatcher_statistics.md R86 to R93): nothing of the other bank, under Unified its kind for
`resp_kind` only, and what each command does to the counters. -/

namespace Sys2Proof.Machine

/-! ### The other bank (R86, R121)

Each operation of an access commutes with a change of a bank it does not go to. -/

section
variable {b c : BankId} (hne : b ≠ c) (bk : Bank) (tag : Tag) (s : State)

@[simp] theorem setBank_inBank (i : Nat) : (s.setBank c bk).inBank b i = s.inBank b i := by
  simp only [State.inBank, State.ringLength, setBank_nBanks, setBank_bankLength]

include hne

theorem setBank_comm (bk' : Bank) : (s.setBank c bk).setBank b bk' = (s.setBank b bk').setBank c bk := by
  cases b <;> cases c
  · exact absurd rfl hne
  · rfl
  · rfl
  · exact absurd rfl hne

theorem dmLookupOrInstall_setBank (index : Nat) :
    dmLookupOrInstall b index tag (s.setBank c bk) =
      (dmLookupOrInstall b index tag s).map (Prod.map id (·.setBank c bk)) := by
  cases hin : s.inBank b index with
  | false => simp only [dmLookupOrInstall, bankRead_not_inBank, setBank_inBank, hin, Except.map]
  | true =>
    have hin' : (s.setBank c bk).inBank b index = true := (setBank_inBank bk s index).trans hin
    rw [dmLookupOrInstall_of_inBank tag hin, dmLookupOrInstall_of_inBank tag hin',
      setBank_bank_of_ne s c b bk hne, setBank_comm hne]
    split
    · rfl
    · split <;> rfl

theorem faScan_setBank (n k : Nat) : faScan (s.setBank c bk) b tag n k = faScan s b tag n k := by
  induction n generalizing k with
  | zero => rfl
  | succ n ih =>
    simp only [faScan, ih, bankRead, setBank_inBank, setBank_bank_of_ne s c b bk hne,
      State.ringLength, setBank_bankLength]

theorem faContains_setBank : faContains b tag (s.setBank c bk) = faContains b tag s := by
  simp only [faContains, faScan_setBank hne, setBank_bank_of_ne s c b bk hne, State.ringLength,
    setBank_bankLength]

theorem faInstall_setBank :
    faInstall b tag (s.setBank c bk) =
      (faInstall b tag s).map (Prod.map id (·.setBank c bk)) := by
  have hbank := setBank_bank_of_ne s c b bk hne
  have hin' : (s.setBank c bk).inBank b ((s.setBank c bk).bank b).end_.toNat =
      s.inBank b (s.bank b).end_.toNat := by rw [setBank_inBank, hbank]
  cases hin : s.inBank b (s.bank b).end_.toNat with
  | false =>
    rw [faInstall_not_inBank tag hin, faInstall_not_inBank tag (hin'.trans hin)]
    rfl
  | true =>
    rw [faInstall_of_inBank tag hin, faInstall_of_inBank tag (hin'.trans hin), hbank,
      setBank_comm hne, State.ringLength, setBank_bankLength]
    rfl

theorem faLookupOrInstall_setBank :
    faLookupOrInstall b tag (s.setBank c bk) =
      (faLookupOrInstall b tag s).map (Prod.map id (·.setBank c bk)) := by
  simp only [faLookupOrInstall, faContains_setBank hne, faInstall_setBank hne]
  cases faContains b tag s with
  | error => rfl
  | ok found =>
    cases found with
    | true => rfl
    | false => cases faInstall b tag s <;> rfl

theorem lookupOrInstall_setBank (p : AddressParts) :
    lookupOrInstall b p (s.setBank c bk) =
      (lookupOrInstall b p s).map (Prod.map id (·.setBank c bk)) := by
  simp only [lookupOrInstall, setBank_cfg]
  cases s.cfg.mapping with
  | directMapped => exact dmLookupOrInstall_setBank hne bk _ s _
  | fullyAssociative => exact faLookupOrInstall_setBank hne bk _ s

end

section
variable (k : AccessKind) (a : Addr) {s : State} {c : BankId}

theorem recordOutcome_setBank (r : LookupResult) (bk : Bank) :
    recordOutcome r (s.setBank c bk) = (recordOutcome r s).setBank c bk := by
  cases c <;> rcases r with ⟨_ | _, _ | _⟩ <;> rfl

theorem respond_setBank (r : LookupResult) (p : AddressParts) (bk : Bank) :
    respond r k p (s.setBank c bk) = (respond r k p s).setBank c bk := by
  cases c <;> rfl

theorem raiseError_setBank (e : BlockError) (w : CmdWord) (bk : Bank) :
    raiseError e w (s.setBank c bk) = (raiseError e w s).setBank c bk := by
  cases c <;> rfl

theorem performAccess_setBank (hne : bankOf s.cfg.org k ≠ c) (bk : Bank) :
    performAccess k a (s.setBank c bk) = mapNext (·.setBank c bk) (performAccess k a s) := by
  simp only [performAccess, process, setBank_cfg, setBank_fields, lookupOrInstall_setBank hne]
  cases lookupOrInstall (bankOf s.cfg.org k) (decodeAddress a s.fields) s with
  | error => rfl
  | ok ru =>
    obtain ⟨r, u⟩ := ru
    simp only [Except.map, Prod.map, id, recordOutcome_setBank, respond_setBank, mapNext_next]

/-- R86, R121: with another content in the bank it does not go to, an access has the same outcome but for
that bank. -/
theorem exec_accessOf_setBank (hne : bankOf s.cfg.org k ≠ c) (bk : Bank) :
    exec (accessOf k a) (s.setBank c bk) =
      mapNext (·.setBank c bk) (exec (accessOf k a) s) := by
  simp only [exec_accessOf, accessCommand, setBank_phase, setBank_stats, raiseError_setBank,
    performAccess_setBank k a hne]
  cases s.phase with
  | unconfigured => rfl
  | running => dsimp only; split <;> rfl
  | ended => rfl
  | faulted => rfl

/-- An access leaves the bank it does not go to: writing back what that bank holds changes neither the
state before nor, then, the state after. -/
theorem exec_accessOf_bank_of_ne {t : State} (hne : bankOf s.cfg.org k ≠ c)
    (h : exec (accessOf k a) s = .next t) : t.bank c = s.bank c := by
  have hsame := exec_accessOf_setBank k a hne (s.bank c)
  rw [setBank_bank_eq, h, mapNext_next] at hsame
  have ht : t = t.setBank c (s.bank c) := Host.Outcome.next.inj hsame
  rw [ht, setBank_bank_self]

end

/-! ### The kind (R86, R94) -/

/-- The state with another `resp_kind`. -/
def State.withRespKind (s : State) (k : AccessKind) : State :=
  { s with resp := { s.resp with kind := k } }

/-- R86: under Unified both kinds go to bank 0, so an access has the same outcome with either but for
`resp_kind`. -/
theorem performAccess_of_unified {s : State} (ho : s.cfg.org = .unified) (k k' : AccessKind)
    (a : Addr) : performAccess k' a s = mapNext (·.withRespKind k') (performAccess k a s) := by
  simp only [performAccess, process, ho, bankOf]
  cases lookupOrInstall .bank0 (decodeAddress a s.fields) s with
  | error => rfl
  | ok => rfl

/-! ### The counters (R93) -/

/-- Only an access that can be performed and CONFIGURE's allocation write the counters. -/
theorem commandEffect_stats {i : Instr} {s t : State} (h : CommandEffect i s t)
    (hno : ¬ s.CanAccess ∨ ∀ k a, i ≠ accessOf k a)
    (hphase : s.phase ≠ .unconfigured ∨ t.phase ≠ .running) : t.stats = s.stats := by
  cases h with
  | ignored => rfl
  | raised => rfl
  | ended => rfl
  | configured hi hp hsize hcap h => simp [hp, (performConfigure_writes h).1] at hphase
  | accessed hi hp hmax h =>
    obtain hcan | hne := hno
    · exact absurd (canAccess_of_ne_counterMax hp hmax) hcan
    · exact absurd hi (hne _ _)

/-- A command that leads from UNCONFIGURED to RUNNING is a CONFIGURE that completes, and it zeroes the
counters. -/
theorem commandEffect_stats_of_configured {i : Instr} {s t : State} (h : CommandEffect i s t)
    (hp : s.phase = .unconfigured) (hrun : t.phase = .running) : t.stats = Statistics.zero := by
  cases h with
  | ignored hp' => cases hp.symm.trans hp'
  | raised => cases hrun
  | ended => cases hrun
  | accessed hi hp' => cases hp.symm.trans hp'
  | configured hi hp' hsize hcap h =>
    obtain ⟨-, hstats, -⟩ := performConfigure_writes h
    exact hstats

end Sys2Proof.Machine
end

section
/-! SUPPORT. The statements about the dispatcher and the statistics (spec
43_dispatcher_statistics.md). -/

namespace Sys2Proof.Machine

/-- Settles O18: the checks of an access come in this order, and each raises its error. -/
theorem accessErrorsInOrder : Obligations.AccessErrorsInOrder := by
  refine fun k a s => ⟨fun hp => ?_, fun hp => ?_, fun hp hend => ?_⟩ <;>
    simp only [exec_accessOf, accessCommand, hp]
  · rfl
  · rfl
  · have hmax : s.stats.accesses = counterMax := BitVec.eq_of_toNat_eq hend
    rw [if_pos hmax]
    rfl

/-- Settles O38: ACCESS_I goes to bank 0 and ACCESS_D to bank 1, and no operation of an access reads or
writes another bank. -/
theorem splitBanksDoNotInteract : Obligations.SplitBanksDoNotInteract := by
  intro a s t bk ho
  have hI : bankOf s.cfg.org .instruction ≠ .bank1 := by simp [ho, bankOf]
  have hD : bankOf s.cfg.org .data ≠ .bank0 := by simp [ho, bankOf]
  refine ⟨fun h => ⟨exec_accessOf_bank_of_ne .instruction a hI h, ?_⟩,
    fun h => ⟨exec_accessOf_bank_of_ne .data a hD h, ?_⟩⟩
  · exact (exec_accessOf_setBank .instruction a hI bk).trans (congrArg (mapNext _) h)
  · exact (exec_accessOf_setBank .data a hD bk).trans (congrArg (mapNext _) h)

/-- Settles O39: under Unified both kinds go to bank 0, and the response alone names the kind. -/
theorem unifiedSharesBankZero : Obligations.UnifiedSharesBankZero := by
  intro a s t ho hcan h
  refine ⟨exec_accessOf_bank_of_ne .instruction a (c := .bank1) (by simp [ho, bankOf]) h, ?_⟩
  change exec (accessOf .instruction a) s = .next t at h
  change exec (accessOf .data a) s = _
  rw [exec_accessOf_of_canAccess hcan] at h ⊢
  rw [performAccess_of_unified ho .instruction, h]
  rfl

/-- Settles O42: a completed access leaves what `State.afterAccess` says, whose counters do not wrap under
the invariant; a hit evicts nothing in either engine. -/
theorem counterLaw : Obligations.CounterLaw := by
  refine ⟨fun k a s t hs hcan h => ?_, fun i s t h => commandEffect_stats (exec_effect h),
    fun i s t h => commandEffect_stats_of_configured (exec_effect h), fun s t hrst h => ?_⟩
  · obtain ⟨r, bk, hperform, -, heffect⟩ := performAccess_effect (configured_of_inv hs hcan.1) k a
    rw [exec_accessOf_of_canAccess hcan, hperform] at h
    cases h
    obtain ⟨hacc, hhits, hevicts⟩ := afterAccess_counters (countersOk_of_inv hs)
      (ne_counterMax_of_canAccess hcan) k a (s.bankFor k) bk r
    have hhit : (s.afterAccess k a (s.bankFor k) bk r).resp.hit = true ↔ r.result = .hit :=
      decide_eq_true_iff
    refine ⟨hacc, by simpa only [hhit] using hhits, hevicts, fun ⟨hh, he⟩ => ?_⟩
    exact absurd ((heffect.hit_evicts_nothing (hhit.1 hh)).symm.trans he) nofun
  · obtain ⟨-, rfl⟩ | ⟨hrst', -⟩ := step_effect h
    · rfl
    · rw [hrst] at hrst'; cases hrst'

/-- Settles O56: a fraction with a nonzero denominator times its denominator is its numerator. -/
theorem hitRateIsExactOrRefused : Obligations.HitRateIsExactOrRefused := by
  refine fun s => ⟨fun hzero => ?_, fun hpos => ?_⟩
  · exact if_pos (BitVec.eq_of_toNat_eq hzero)
  · have hne : s.stats.accesses ≠ 0 := fun heq => by simp [State.portValues, heq] at hpos
    refine ⟨_, if_neg hne, ?_⟩
    rw [Rat.mkRat_eq_div]
    exact div_mul_cancel₀ _ (Nat.cast_ne_zero.2 (Nat.ne_of_gt hpos))

end Sys2Proof.Machine
end

section
/-! SUPPORT. What the control commands' checks accept and what an accepted CONFIGURE writes (spec
40_address_decoder.md R61; 44_control_commands.md R97, R98, R100). -/

namespace Sys2Proof.Machine

/-! ### `config_valid` (R98) -/

/-- R98: the check accepts no reserved bit, and the legal sizes. -/
theorem configValid_iff (size : BitVec 16) (rsv : BitVec 14) :
    configValid size rsv = true ↔ rsv = 0 ∧ size ∈ legalSizes := by
  refine ⟨legal_of_configValid, ?_⟩
  rintro ⟨rfl, hsize⟩
  obtain rfl | rfl | rfl | rfl | rfl | rfl := (mem_legalSizes_iff size).1 hsize <;> decide

theorem configValid_iff_and_pred (size : BitVec 16) (rsv : BitVec 14) :
    configValid size rsv = true ↔
      rsv = 0 ∧ 128 ≤ size.toNat ∧ size.toNat ≤ 4096 ∧ size &&& (size - 1) = 0 := by
  simp only [configValid, Bool.and_eq_true, beq_iff_eq, decide_eq_true_eq]

/-- The bit test of R98 says that a size is a power of two. -/
theorem and_pred_eq_zero_iff {size : BitVec 16} (hpos : 0 < size.toNat) :
    size &&& (size - 1) = 0 ↔ ∃ n, size.toNat = 2 ^ n := by
  have hpred : (size - 1).toNat = size.toNat - 1 := by bv_omega
  rw [← BitVec.toNat_inj, BitVec.toNat_and, hpred]
  exact Nat.and_sub_one_eq_zero_iff_isPowerOfTwo hpos.ne'

theorem dvd_of_legal {size : BitVec 16} (h : size ∈ legalSizes) : 64 ∣ size.toNat := by
  obtain rfl | rfl | rfl | rfl | rfl | rfl := (mem_legalSizes_iff size).1 h <;> decide

/-! ### The capacity (R61, R97) -/

theorem bankLengthOf_eq (size : BitVec 16) (o : Organization) :
    bankLengthOf size o = if o = .split then size.toNat / 128 else size.toNat / 64 := by
  cases o
  · rfl
  · exact Nat.div_div_eq_div_mul _ 64 2

/-- The banks of a legal configuration have one slot for every block of the size. -/
theorem bankCountOf_mul_bankLengthOf {size : BitVec 16} (h : size ∈ legalSizes) (o : Organization) :
    bankCountOf o * bankLengthOf size o = size.toNat / 64 := by
  obtain rfl | rfl | rfl | rfl | rfl | rfl := (mem_legalSizes_iff size).1 h <;> cases o <;> decide

theorem blocks_of_legal_le {size : BitVec 16} (h : size ∈ legalSizes) : size.toNat / 64 ≤ 64 := by
  obtain ⟨-, hle, -⟩ := bankLengthOf_legal h .unified
  exact hle

/-! ### The checks of CONFIGURE in UNCONFIGURED (R97, R105) -/

section
variable {size : BitVec 16} {m : Mapping} {o : Organization} {rsv : BitVec 14} {s : State}
  (hp : s.phase = .unconfigured)
include hp

theorem exec_configure_of_invalid (hv : configValid size rsv = false) :
    exec (.configure size m o rsv) s =
      .next (raiseError .configError (encode (.configure size m o rsv)) s) := by
  simp only [exec, execConfigure, hp, configureUnconfigured, if_pos hv]

theorem exec_configure_of_legal (hsize : size ∈ legalSizes) :
    exec (.configure size m o 0) s =
      if s.params.maxBlocks < size.toNat / 64 then
        .next (raiseError .allocationError (encode (.configure size m o 0)) s)
      else performConfigure size m o s := by
  have hv : configValid size 0 = true := (configValid_iff size 0).2 ⟨rfl, hsize⟩
  simp only [exec, execConfigure, hp, configureUnconfigured, hv, Bool.true_eq_false, if_false,
    bankCountOf_mul_bankLengthOf hsize, gt_iff_lt]

end

/-! ### Which command raises ALLOCATION_ERROR (R97) -/

/-- Code 2 is ALLOCATION_ERROR's alone (R102). -/
theorem raiseError_errCode_ne_two {e : BlockError} (he : e ≠ .allocationError) (w : CmdWord)
    (s : State) : (raiseError e w s).errCode ≠ 2 := by
  rw [raiseError_errCode]
  cases e with
  | allocationError => exact absurd rfl he
  | _ => decide

theorem accessCommand_errCode_ne_two {k : AccessKind} {a : Addr} {w : CmdWord} {s t : State}
    (h : accessCommand k a w s = .next t) (hs : s.errCode ≠ 2) : t.errCode ≠ 2 := by
  obtain ⟨-, rfl⟩ | ⟨-, rfl⟩ | ⟨-, rfl⟩ | ⟨-, -, rfl⟩ | ⟨-, -, hperform⟩ := accessCommand_next h
  · exact hs
  · exact raiseError_errCode_ne_two (by decide) _ s
  · exact raiseError_errCode_ne_two (by decide) _ s
  · exact raiseError_errCode_ne_two (by decide) _ s
  · obtain ⟨-, hcode, -⟩ := performAccess_frame hperform
    rwa [hcode]

theorem execEndTrace_errCode_ne_two {z : BitVec 32} {s t : State} (h : execEndTrace z s = .next t)
    (hs : s.errCode ≠ 2) : t.errCode ≠ 2 := by
  obtain ⟨-, rfl⟩ | ⟨-, rfl⟩ | ⟨-, rfl⟩ | ⟨-, -, rfl⟩ | ⟨-, -, rfl⟩ := execEndTrace_next h
  · exact hs
  · exact raiseError_errCode_ne_two (by decide) _ s
  · exact raiseError_errCode_ne_two (by decide) _ s
  · exact hs
  · exact raiseError_errCode_ne_two (by decide) _ s

theorem reservedCommand_errCode_ne_two {w : CmdWord} {s t : State}
    (h : reservedCommand w s = .next t) (hs : s.errCode ≠ 2) : t.errCode ≠ 2 := by
  rw [reservedCommand_eq] at h
  split at h <;> cases h
  · exact hs
  · exact raiseError_errCode_ne_two (by decide) _ s

/-- A CONFIGURE raises ALLOCATION_ERROR only for a legal size with more blocks than MAX_BLOCKS. -/
theorem execConfigure_errCode_ne_two {size : BitVec 16} {m : Mapping} {o : Organization}
    {rsv : BitVec 14} {s t : State} (h : execConfigure size m o rsv s = .next t)
    (hs : s.errCode ≠ 2) (hcap : size ∈ legalSizes → size.toNat / 64 ≤ s.params.maxBlocks) :
    t.errCode ≠ 2 := by
  obtain ⟨-, rfl⟩ | ⟨-, rfl⟩ | ⟨-, -, rfl⟩ | ⟨-, hv, hover, -⟩ | ⟨-, -, -, hperform⟩ :=
    execConfigure_next h
  · exact hs
  · exact raiseError_errCode_ne_two (by decide) _ s
  · exact raiseError_errCode_ne_two (by decide) _ s
  · obtain ⟨-, hsize⟩ := legal_of_configValid hv
    rw [bankCountOf_mul_bankLengthOf hsize] at hover
    exact absurd (hcap hsize) (Nat.not_le.2 hover)
  · obtain ⟨-, -, hcode, -⟩ := performConfigure_writes hperform
    rwa [hcode]

/-! ### The configuration and the banks after CONFIGURE (R97) -/

theorem allocate_slot_of_lt {L j : Nat} (bk : Bank) (hL : L ≤ slotsPerBank) (hj : j < L) :
    (bk.allocate L).slot j = CacheBlock.empty := by
  rw [allocate_slot L j bk (by omega), if_pos hj]

/-- CONFIGURE clears no slot from the bank length on, inside the storage or outside it. -/
theorem allocate_slot_of_le {L j : Nat} (bk : Bank) (hj : L ≤ j) :
    (bk.allocate L).slot j = bk.slot j := by
  by_cases h : j < slotsPerBank
  · rw [allocate_slot L j bk h, if_neg (by omega)]
  · rw [slot_of_le _ (by omega), slot_of_le _ (by omega)]

theorem performConfigure_cfg {size : BitVec 16} {m : Mapping} {o : Organization} {s t : State}
    (h : performConfigure size m o s = .next t) : t.cfg = { size := size, mapping := m, org := o } := by
  obtain ⟨f, -, rfl⟩ := performConfigure_next h
  rfl

theorem performConfigure_bank {size : BitVec 16} {m : Mapping} {o : Organization} {s t : State}
    (h : performConfigure size m o s = .next t) (b : BankId) :
    t.bank b = if b.number < bankCountOf o then (s.bank b).allocate (bankLengthOf size o)
      else s.bank b := by
  obtain ⟨f, -, rfl⟩ := performConfigure_next h
  cases b <;> rfl

/-! ### The reserved opcodes (R100) -/

/-- The meaning of every reserved opcode is the one they share. -/
theorem exec_of_mem_reservedInstrs {p : Payload} {i : Instr} (h : i ∈ reservedInstrs p) (s : State) :
    exec i s = reservedCommand (encode i) s := by
  simp only [reservedInstrs, List.mem_cons, List.not_mem_nil, or_false] at h
  obtain rfl | rfl | rfl | rfl | rfl | rfl | rfl | rfl | rfl | rfl | rfl | rfl := h <;> rfl

end Sys2Proof.Machine
end

section
/-! SUPPORT. The statements about the control commands (spec 44_control_commands.md). -/

namespace Sys2Proof.Machine

/-- Settles O16: the phase is checked first, then `config_valid`, then the capacity. -/
theorem configureErrorsInOrder : Obligations.ConfigureErrorsInOrder := by
  intro size map org rsv s
  refine ⟨?_, fun hp hbad => ?_, ?_⟩
  · rintro (hp | hp) <;> simp only [exec, execConfigure, hp] <;> rfl
  · have hv : configValid size rsv = false := by
      rw [Bool.eq_false_iff, Ne, configValid_iff]
      exact not_and_or.2 hbad
    exact exec_configure_of_invalid hp hv
  · rintro hp rfl hsize hcap
    rw [exec_configure_of_legal hp hsize, if_pos hcap]
    rfl

/-- Settles O17: the largest legal size has 64 blocks. -/
theorem defaultCapacityAlwaysSuffices : Obligations.DefaultCapacityAlwaysSuffices := by
  intro i s t hmax hs h
  cases i with
  | configure =>
    exact execConfigure_errCode_ne_two h hs fun hsize => (blocks_of_legal_le hsize).trans hmax
  | accessI | accessD => exact accessCommand_errCode_ne_two h hs
  | endTrace => exact execEndTrace_errCode_ne_two h hs
  | _ => exact reservedCommand_errCode_ne_two h hs

/-- Settles O21: a legal size passes the bit test, which finds the powers of two. -/
theorem configValidAcceptsSixSizes : Obligations.ConfigValidAcceptsSixSizes := by
  intro size rsv
  refine ⟨?_, configValid_iff_and_pred size rsv, ?_, fun hv => ?_⟩
  · rw [configValid_iff, mem_legalSizes_iff]
  · rw [configValid_iff_and_pred]
    refine and_congr_right fun _ => and_congr_right fun hlo => and_congr_right fun _ => ?_
    exact and_pred_eq_zero_iff (by omega)
  · exact dvd_of_legal (legal_of_configValid hv).2

/-- Settles O22: the registers are the derived ones of the configuration, and each bank in use is
allocated. -/
theorem configureStartsTheRun : Obligations.ConfigureStartsTheRun := by
  intro size map org s hp hsize hcap
  obtain ⟨t, ht⟩ := performConfigure_answers (m := map) (o := org) (s := s) hsize
  have hexec : exec (.configure size map org 0) s = .next t := by
    rw [exec_configure_of_legal hp hsize, if_neg (Nat.not_lt.2 hcap), ht]
  have hslots : bankCountOf org * bankLengthOf size org ≤ s.params.maxBlocks :=
    (bankCountOf_mul_bankLengthOf hsize org).trans_le hcap
  obtain ⟨hparams, hinputs⟩ := commandEffect_params_inputs (exec_effect hexec)
  obtain ⟨hphase, hstats, hcode, hcmd, hresp⟩ := performConfigure_writes ht
  obtain ⟨-, hn, hL, hoff, hindex, hsum, -⟩ := performConfigure_registersDerived hsize hslots ht
  have hcfg := performConfigure_cfg ht
  obtain ⟨-, hL64, -⟩ := bankLengthOf_legal hsize org
  rw [hcfg] at hn hL hindex
  refine ⟨t, hexec, hphase, hcfg, ?_, hL.trans (bankLengthOf_eq size org), hoff, ?_, by omega, ?_, ?_,
    hstats, hcode, hcmd, hresp, hparams, hinputs⟩
  · rw [hn]
    cases org <;> rfl
  · rw [hL]
    exact hindex
  · intro b hb
    have hbank := performConfigure_bank ht b
    rw [if_pos (hn ▸ hb)] at hbank
    rw [hbank, hL]
    exact ⟨fun j => allocate_slot_of_lt _ hL64, fun j => allocate_slot_of_le _, rfl, rfl, rfl⟩
  · intro b hb
    rw [performConfigure_bank ht, if_neg (Nat.not_lt.2 (hn ▸ hb))]

/-- Settles O19: the phases in the order of R105, and in RUNNING the operand. -/
theorem endTraceMeaning : Obligations.EndTraceMeaning := by
  refine fun z s => ⟨fun hp hz => ?_, fun hp hz => ?_, fun hp => ?_, fun hp => ?_, fun hp => ?_⟩ <;>
    simp only [exec, execEndTrace, hp]
  · rw [if_pos hz]
  · rw [if_neg hz]
    rfl
  · rfl
  · rfl

/-- Settles O20: the twelve share one meaning, which asks only whether the phase is FAULTED. -/
theorem reservedOpcodesRaiseIllegalCommand : Obligations.ReservedOpcodesRaiseIllegalCommand := by
  intro p i s hi
  rw [exec_of_mem_reservedInstrs hi, reservedCommand_eq]
  exact ⟨fun hp => if_neg hp, fun hp => if_pos hp⟩

end Sys2Proof.Machine
end

section
/-! SUPPORT. The fault entry and what leaves the block as it was (spec 60_exceptions.md R103, R104,
R115). -/

namespace Sys2Proof.Machine

/-! ### The fault entry (R103) -/

/-- Of everything a command can do, only the fault entry leads into FAULTED. -/
theorem commandEffect_entersFaulted {i : Instr} {s t : State} (h : CommandEffect i s t)
    (hp : s.phase ≠ .faulted) (ht : t.phase = .faulted) :
    ∃ e : BlockError, e ≠ .malformedRecord ∧ t = raiseError e (encode i) s := by
  cases h with
  | ignored hp' => exact absurd hp' hp
  | raised e _ he => exact ⟨e, he, rfl⟩
  | configured _ _ _ _ h =>
    obtain ⟨hp', -⟩ := performConfigure_writes h
    cases hp'.symm.trans ht
  | accessed _ _ _ h =>
    obtain ⟨hp', -⟩ := performAccess_frame h
    exact absurd (hp'.symm.trans ht) hp
  | ended => cases ht

/-! ### FAULTED (R104) -/

section
variable {s : State} (hp : s.phase = .faulted)
include hp

theorem execConfigure_faulted (size : BitVec 16) (m : Mapping) (o : Organization) (rsv : BitVec 14) :
    execConfigure size m o rsv s = .next s := by
  simp only [execConfigure, hp]

theorem accessCommand_faulted (k : AccessKind) (a : Addr) (w : CmdWord) :
    accessCommand k a w s = .next s := by
  simp only [accessCommand, hp]

theorem execEndTrace_faulted (z : BitVec 32) : execEndTrace z s = .next s := by
  simp only [execEndTrace, hp]

theorem reservedCommand_faulted (w : CmdWord) : reservedCommand w s = .next s := by
  rw [reservedCommand_eq, if_pos hp]

/-- `exec_of_faulted` with the answer: FAULTED accepts every command, in any state. -/
theorem exec_faulted (i : Instr) : exec i s = .next s := by
  cases i with
  | configure => exact execConfigure_faulted hp _ _ _ _
  | accessI | accessD => exact accessCommand_faulted hp _ _ _
  | endTrace => exact execEndTrace_faulted hp _
  | _ => exact reservedCommand_faulted hp _

end

/-! ### Steps without `rst` (R45, R115) -/

section
variable {s : State}

theorem step_of_no_sample (hi : s.inputs = []) : step s = .next s := by
  simp only [step, hi]

variable {p : PortSample} {rest : List PortSample} (hi : s.inputs = p :: rest) (hr : p.rst = false)
include hi hr

theorem step_of_idle_sample (hv : p.cmdValid = false) : step s = .next { s with inputs := rest } := by
  simp only [step, hi, takeSample, hr, hv, Bool.false_eq_true, if_false]

theorem step_of_command_sample (hv : p.cmdValid = true) :
    step s = exec (decodeCmd p.cmd) { s with inputs := rest } := by
  simp only [step, hi, takeSample, hr, hv, Bool.false_eq_true, if_false, if_true]

end

end Sys2Proof.Machine
end

section
/-! SUPPORT. The statements about errors and about the block at rest (spec 60_exceptions.md). -/

namespace Sys2Proof.Machine

/-- Settles O12: the fault entry is the only way into FAULTED. -/
theorem faultsArePrecise : Obligations.FaultsArePrecise := by
  intro i s t hp h ht
  refine ⟨by simp only [State.runStatus, ht], ?_⟩
  exact commandEffect_entersFaulted (exec_effect h) hp ht

/-- Settles O13: the fault entry records the command's word, and that is the word it was decoded from. -/
theorem faultRecordsTheOfferedWord : Obligations.FaultRecordsTheOfferedWord := by
  intro s t w rest hi hp h ht
  rw [step_offerCommand hi] at h
  obtain ⟨e, he, rfl⟩ := commandEffect_entersFaulted (exec_effect h) hp ht
  obtain ⟨hcode, -⟩ := code_of_raised he
  exact ⟨encode_decodeCmd w, hcode⟩

/-- Settles O15: whether the sample offers a command or not, the state stays. -/
theorem faultedIgnoresEveryCommand : Obligations.FaultedIgnoresEveryCommand := by
  refine ⟨fun i s hp => exec_faulted hp i, fun s hp hrst => ?_⟩
  cases hi : s.inputs with
  | nil => rw [step_of_no_sample hi, List.tail_nil, ← hi]
  | cons p rest =>
    have hr : p.rst = false := by simpa only [State.rstAsserted, hi] using hrst
    rw [List.tail_cons]
    cases hv : p.cmdValid with
    | false => exact step_of_idle_sample hi hr hv
    | true =>
      rw [step_of_command_sample hi hr hv]
      exact exec_faulted (s := { s with inputs := rest }) hp _

/-- Settles O8: a step without a sample and a step with an idle one. -/
theorem idleHoldsAllState : Obligations.IdleHoldsAllState :=
  ⟨fun _ hi => step_of_no_sample hi, fun _ _ _ hi hr hv => step_of_idle_sample hi hr hv⟩

/-- Settles O14: the table's own codes, one by one. -/
theorem errorCodes : Obligations.ErrorCodes := rfl

end Sys2Proof.Machine
end

section
/-! SUPPORT. Reset, the well-formed run and an access repeated (spec 70_reset_and_hazards.md R116, R119,
R121). -/

namespace Sys2Proof.Machine

/-! ### Reset (R116) -/

theorem step_of_reset_sample {s : State} {p : PortSample} {rest : List PortSample}
    (hi : s.inputs = p :: rest) (hr : p.rst = true) :
    step s = .next (applyReset { s with inputs := rest }) := by
  simp only [step, hi, takeSample, hr, if_true]

theorem rstAsserted_of_reset_sample {s : State} {p : PortSample} {rest : List PortSample}
    (hi : s.inputs = p :: rest) (hr : p.rst = true) : s.rstAsserted = true := by
  simp only [State.rstAsserted, hi, hr]

theorem applyReset_missesAccounted (s : State) : (applyReset s).MissesAccounted :=
  missesAccounted_of_empty rfl rfl rfl

/-- A run that is offered a reset and then commands goes on from the reset state. -/
theorem run_reset_offerAll (is : List Instr) (n : Nat) (s : State) :
    Sys2Proof.core.run (n + 1) { s with inputs := assertReset :: offerAll is } =
      Sys2Proof.core.run n { applyReset s with inputs := offerAll is } := by
  have hstep : step { s with inputs := assertReset :: offerAll is } =
      .next { applyReset s with inputs := offerAll is } := step_of_reset_sample rfl rfl
  exact run_succ_of_step Sys2Proof.core n hstep

/-! ### The well-formed run (R119) -/

/-- R88, R93: an access that can be performed completes, stays RUNNING and is counted. -/
theorem exec_accessOf_counts {s : State} (hs : s.Inv) (hp : s.phase = .running)
    (hlt : s.stats.accesses.toNat + 1 < 2 ^ 64) (k : AccessKind) (a : Addr) :
    ∃ t, exec (accessOf k a) s = .next t ∧ t.phase = .running ∧
      t.stats.accesses.toNat = s.stats.accesses.toNat + 1 := by
  obtain ⟨r, bk, hperform, -⟩ := performAccess_effect (configured_of_inv hs hp) k a
  exact ⟨_, (exec_accessOf_of_canAccess (canAccess_of_lt hp hlt) k a).trans hperform, hp,
    counter_toNat_add_one hlt⟩

/-- R119 step 3, by induction on the records: the accesses take one step each and are counted, and the
run goes on with the commands `is` that follow them. -/
theorem run_records (records : List AccessRecord) (is : List Instr) (n : Nat) {s : State}
    (hs : s.Inv) (hp : s.phase = .running)
    (hlt : s.stats.accesses.toNat + records.length < 2 ^ 64) :
    ∃ t : State, Sys2Proof.core.run (records.length + n)
        { s with inputs := offerAll (records.map AccessRecord.command ++ is) } =
          Sys2Proof.core.run n { t with inputs := offerAll is } ∧
      t.phase = .running ∧
      t.stats.accesses.toNat = s.stats.accesses.toNat + records.length := by
  induction records generalizing s with
  | nil => exact ⟨s, by rw [List.length_nil, Nat.zero_add]; rfl, hp, rfl⟩
  | cons r records ih =>
    rw [List.length_cons] at hlt ⊢
    obtain ⟨u, hexec, hp', hacc⟩ := exec_accessOf_counts hs hp (by omega) r.kind r.address
    obtain ⟨t, hrun, ht, hacc'⟩ := ih (exec_inv hs hexec) hp' (by omega)
    refine ⟨t, ?_, ht, by omega⟩
    rw [Nat.add_right_comm]
    exact (run_offerAll_cons hexec _ _).trans hrun

theorem exec_endTrace_running {s : State} (hp : s.phase = .running) :
    exec (.endTrace 0) s = .next { s with phase := .ended } := by
  obtain ⟨hend, -⟩ := endTraceMeaning 0 s
  exact hend hp rfl

/-- R119 steps 2 to 4 from an UNCONFIGURED block. -/
theorem run_configured_trace {size : BitVec 16} (map : Mapping) (org : Organization)
    (records : List AccessRecord) {s : State} (hs : s.Inv) (hp : s.phase = .unconfigured)
    (hsize : size ∈ legalSizes) (hcap : size.toNat / 64 ≤ s.params.maxBlocks)
    (hlt : records.length < 2 ^ 64) :
    ∃ t, Sys2Proof.core.run (records.length + 2)
        { s with
          inputs := offerAll
            (.configure size map org 0 :: records.map AccessRecord.command ++ [.endTrace 0]) } =
          .next t ∧
      t.phase = .ended ∧ t.stats.accesses.toNat = records.length ∧ t.inputs = [] := by
  obtain ⟨u, hconf, hu, -, -, -, -, -, -, -, -, hstats, -⟩ :=
    configureStartsTheRun size map org s hp hsize hcap
  have hzero : u.stats.accesses.toNat = 0 := by rw [hstats]; rfl
  obtain ⟨t, hrun, ht, hacc⟩ := run_records records [.endTrace 0] 1 (exec_inv hs hconf) hu (by omega)
  rw [hzero, Nat.zero_add] at hacc
  refine ⟨{ t with phase := .ended, inputs := [] }, ?_, rfl, hacc, rfl⟩
  calc Sys2Proof.core.run (records.length + 2) _
      = Sys2Proof.core.run (records.length + 1)
          { u with inputs := offerAll (records.map AccessRecord.command ++ [.endTrace 0]) } :=
        run_offerAll_cons hconf _ _
    _ = Sys2Proof.core.run 1 { t with inputs := offerAll [.endTrace 0] } := hrun
    _ = _ := run_offerAll_cons (exec_endTrace_running ht) [] 0

theorem runStatus_of_ended {s : State} (hp : s.phase = .ended) :
    s.runStatus = .successful s.stats.accesses s.stats.hits s.stats.evicts := by
  simp only [State.runStatus, hp]

/-! ### An access repeated (R35, R121) -/

/-- The state a completed access leaves that hits: no bank changes. -/
def State.afterHit (s : State) (k : AccessKind) (a : Addr) : State :=
  s.afterAccess k a (s.bankFor k) (s.bank (s.bankFor k)) { result := .hit, evicted := false }

theorem afterHit_bank (s : State) (k : AccessKind) (a : Addr) (b : BankId) :
    (s.afterHit k a).bank b = s.bank b := by
  rw [State.afterHit, afterAccess_bank]
  split
  · next hb => rw [hb]
  · rfl

theorem afterDirectMapped_eq_afterHit {s : State} {k : AccessKind} {a : Addr}
    (h : (s.bank (s.bankFor k)).slot (s.indexOf a) =
      { tag := BitVec.ofNat 26 (s.tagOf a), valid := true }) :
    s.afterDirectMapped k a = s.afterHit k a := by
  rw [State.afterDirectMapped, directMappedAccess_of_tag_eq (by rw [h]) (by rw [h]), State.afterHit]

/-- R71: an access leaves its tag, valid, in its slot, so that the same access then hits. -/
theorem afterDirectMapped_again {s : State} (hr : s.RegistersDerived) (k : AccessKind) (a : Addr) :
    (s.afterDirectMapped k a).afterDirectMapped k a = (s.afterDirectMapped k a).afterHit k a :=
  afterDirectMapped_eq_afterHit ((afterDirectMapped_slot k a hr _ _).trans (if_pos ⟨rfl, rfl⟩))

theorem afterAssociative_eq_afterHit {s : State} {k : AccessKind} {a : Addr}
    (h : BitVec.ofNat 26 (a.toNat / 64) ∈
      (s.bank (s.bankFor k)).residentTags s.bankLength.toNat) :
    s.afterAssociative k a = s.afterHit k a := by
  rw [State.afterAssociative, associativeAccess_of_mem h, State.afterHit]

/-- R83: an access leaves its tag among the entries. -/
theorem mem_fifoAccess (L : Nat) (q : List Tag) (tag : Tag) : tag ∈ (fifoAccess L q tag).2 := by
  unfold fifoAccess
  split
  · assumption
  · split <;> exact List.mem_append_right _ List.mem_cons_self

/-- R80, R83: an access leaves its tag resident in its bank, so that the same access then hits. -/
theorem afterAssociative_again {s : State} (hc : s.Configured)
    (hm : s.cfg.mapping = .fullyAssociative) (k : AccessKind) (a : Addr) :
    (s.afterAssociative k a).afterAssociative k a = (s.afterAssociative k a).afterHit k a := by
  have hmem := mem_fifoAccess s.bankLength.toNat
    ((s.bank (s.bankFor k)).residentTags s.bankLength.toNat) (BitVec.ofNat 26 (a.toNat / 64))
  rw [afterAssociative_refines_fifo hc hm] at hmem
  exact afterAssociative_eq_afterHit hmem

/-- Under either mapping an access completes, and completes as a hit when it is repeated. -/
theorem exec_accessOf_twice {s : State} (hs : s.Inv) (hp : s.phase = .running)
    (hlt : s.stats.accesses.toNat + 2 < 2 ^ 64) (k : AccessKind) (a : Addr) :
    ∃ t, exec (accessOf k a) s = .next t ∧ exec (accessOf k a) t = .next (t.afterHit k a) := by
  have hc := configured_of_inv hs hp
  obtain ⟨t, hexec, hp', hacc⟩ := exec_accessOf_counts hs hp (by omega) k a
  have hcan := canAccess_of_lt hp (by omega)
  have hcan' := canAccess_of_lt hp' (by omega)
  have hs' := exec_inv hs hexec
  refine ⟨t, hexec, ?_⟩
  cases hm : s.cfg.mapping with
  | directMapped =>
    cases (exec_directMapped hs hcan hm k a).symm.trans hexec
    rw [exec_directMapped hs' hcan' hm, afterDirectMapped_again hc.1]
  | fullyAssociative =>
    cases (exec_associative hs hcan hm k a).symm.trans hexec
    rw [exec_associative hs' hcan' hm, afterAssociative_again hc hm]

end Sys2Proof.Machine
end

section
/-! SUPPORT. The statements about reset and hazards (spec 70_reset_and_hazards.md). -/

namespace Sys2Proof.Machine

/-- Settles O54: reset leaves the invariant, from which every run keeps it; the run itself is CONFIGURE,
the records one by one, and END_TRACE. -/
theorem wellFormedRunSucceeds : Obligations.WellFormedRunSucceeds := by
  intro size map org records s hsize hcap hlt
  obtain ⟨t, hrun, hp, hacc, hins⟩ :=
    run_configured_trace map org records (applyReset_inv s) rfl hsize hcap hlt
  have hrun' := (run_reset_offerAll _ (records.length + 2) s).trans hrun
  obtain ⟨t', hanswer, hinv, hmisses⟩ :=
    run_answers_inv (records.length + 2)
      ((inv_with_inputs _).2 (applyReset_inv s))
      ((missesAccounted_with_inputs _).2 (applyReset_missesAccounted s))
  cases hrun.symm.trans hanswer
  exact ⟨t, hrun', runStatus_of_ended hp, hacc, hinv, hmisses, hins⟩

/-- Settles O41: the first access leaves its tag resident, so the second one hits. -/
theorem secondAccessHits : Obligations.SecondAccessHits := by
  intro k a s hs hp hlt
  obtain ⟨t, hfirst, hsecond⟩ := exec_accessOf_twice hs hp hlt k a
  exact ⟨t, _, hfirst, hsecond, rfl, rfl, afterHit_bank t k a .bank0, afterHit_bank t k a .bank1⟩

/-- Settles O9: the step applies the reset, which leaves the values of `State.reset`. -/
theorem resetFromAnyState : Obligations.ResetFromAnyState := by
  intro s p rest hi hr
  rw [outputs_of_reset (rstAsserted_of_reset_sample hi hr)]
  obtain ⟨-, -, -, -, -, -, -, -, -, -, -, hbanks, -⟩ := resetValues
  refine ⟨rfl, rfl, _, step_of_reset_sample hi hr, rfl, rfl, rfl, rfl, rfl, rfl, rfl, rfl, rfl, rfl,
    rfl, fun b => ?_, rfl, rfl, rfl, rfl, rfl, rfl, rfl, rfl, rfl, rfl, rfl, rfl⟩
  have hbank : (applyReset { s with inputs := rest }).bank b = State.reset.bank b := by
    cases b <;> rfl
  rw [hbank]
  exact hbanks b

end Sys2Proof.Machine
end
